-- ==== Sys2Proof/Word.lean ====
section
/-! DEFINITION. The word types of the block: bytes, lanes, the 25-lane file and the command word. -/

namespace Sys2Proof

/-- A byte: the unit of `IN`, `OUT`, `DG` and the byte view of the state (R40, R45). -/
abbrev Byte := BitVec 8

/-- A lane: "one 64-bit word of the 1600-bit state" (R10, R21). -/
abbrev Lane := BitVec 64

/-- The lane file `A[0..24]`, "exactly 25 words of 64 bits each" (R21). -/
abbrev Lanes := Vector Lane 25

/-- The digest register `DG[0..31]` (R29). -/
abbrev Digest := Vector Byte 32

/-- The result buffer `OUT[0..39]` (R31). -/
abbrev OutBuffer := Vector Byte 40

/-- A command word `CW`: opcode in bits 7:0, operand field in bits 15:8 (R60). -/
abbrev CommandWord := BitVec 16

/-- A round index operand as the word carries it, `CW[12:8]` (R61). -/
abbrev RoundIndex := BitVec 5

end Sys2Proof
end

