-- ==== Sys2Proof/Machine/Constants.lean ====
section
/-! DEFINITION. The constant tables of the block: round constants (R32) and rotation offsets (R33). -/

namespace Sys2Proof.Machine

/-- `RC[r]` for a round index `r` of 0 to 23 (R32, R85), written as R32 prints its table, two rounds to a row.
The values are the spec's, marked there as general knowledge (G1). -/
def roundConstant : Nat → Lane
  | 0 => 0x0000000000000001 | 12 => 0x000000008000808B
  | 1 => 0x0000000000008082 | 13 => 0x800000000000008B
  | 2 => 0x800000000000808A | 14 => 0x8000000000008089
  | 3 => 0x8000000080008000 | 15 => 0x8000000000008003
  | 4 => 0x000000000000808B | 16 => 0x8000000000008002
  | 5 => 0x0000000080000001 | 17 => 0x8000000000000080
  | 6 => 0x8000000080008081 | 18 => 0x000000000000800A
  | 7 => 0x8000000000008009 | 19 => 0x800000008000000A
  | 8 => 0x000000000000008A | 20 => 0x8000000080008081
  | 9 => 0x0000000000000088 | 21 => 0x8000000000008080
  | 10 => 0x0000000080008009 | 22 => 0x0000000080000001
  | 11 => 0x000000008000000A | 23 => 0x8000000080008008
  | _ => 0

/-- `ROT[0..24]`, indexed like the lanes (R33; the values are the spec's, marked there as general knowledge, G2). -/
def rotationOffsets : Vector Nat 25 :=
  #v[ 0, 1, 62, 28, 27,
      36, 44, 6, 55, 20,
      3, 10, 43, 25, 39,
      41, 45, 15, 21, 8,
      18, 2, 61, 56, 14 ]

/-- `ROT[i]` for a lane index `i` of 0 to 24 (R33). -/
def rotationOffset (i : Nat) : Nat := rotationOffsets.toList.getD i 0

end Sys2Proof.Machine
end

