-- ==== Sys2Proof/Config.lean ====
section
/-! DEFINITION. The sizes of the block (R6) and the numbers of its control registers (R25).
The tables `RC` and `ROT` are in Machine/Constants.lean.
`MAX_INPUT_BYTES`, the one open parameter, is a field of State (notes/assumptions/4.md).
The spec leaves no value to be drawn (93_implementation_defined.md, Part 1), so there is no free value. -/

namespace Sys2Proof.Config

/-- `ROUNDS`: rounds in one permutation (R6). -/
abbrev rounds : Nat := 24

/-- `RATE`: bytes of the state that input is XORed into (R6, R43). -/
abbrev rate : Nat := 136

/-- `PAD_FIRST`: the byte XORed just after the last input byte (R6, R103). -/
abbrev padFirst : Byte := 0x01

/-- `PAD_LAST`: the byte XORed at byte index 135 (R6, R103). -/
abbrev padLast : Byte := 0x80

/-- `DIGEST_BYTES` (R6). -/
abbrev digestBytes : Nat := 32

/-- `KEY_TAIL`: significant trailing bytes of a public-key argument (R6, R130). -/
abbrev keyTail : Nat := 65

/-- `ADDR_BYTES` (R6). -/
abbrev addrBytes : Nat := 20

/-- `ADDR_CHARS` (R6). -/
abbrev addrChars : Nat := 40

/-- The registers of the block's control space (R25). -/
inductive ControlRegister where
  | status
  | pos
  | ilen
  | olen
  deriving DecidableEq, Repr

/-- The register numbers of the control space: `STATUS` 0, `POS` 1, `ILEN` 2, `OLEN` 3 (R25). -/
def ControlRegister.number : ControlRegister → Nat
  | .status => 0
  | .pos => 1
  | .ilen => 2
  | .olen => 3

end Sys2Proof.Config
end

