-- ==== Sys2Proof/Syntax.lean ====
section
/-! DEFINITION. The 14 operations of the block (R63), one constructor per row of the opcode table. -/

namespace Sys2Proof

/-- An operation with the operand its command word carries.
The argument of a host-level operation is in `IN` and `ILEN`, not in the word (R60). -/
inductive Instr where
  /-- THETA, format N (R81). -/
  | theta
  /-- RHO, format N (R82). -/
  | rho
  /-- PI, format N (R83). -/
  | pi
  /-- CHI, format N (R84). -/
  | chi
  /-- IOTA r, format R (R85). -/
  | iota (r : RoundIndex)
  /-- ROUND r, format R (R86). -/
  | round (r : RoundIndex)
  /-- PERMUTE, format N (R87). -/
  | permute
  /-- SP_INIT, format N (R101). -/
  | spInit
  /-- SP_ABSORB b, format I (R102). -/
  | spAbsorb (b : Byte)
  /-- SP_PAD, format N (R103). -/
  | spPad
  /-- SP_SQUEEZE, format N (R104). -/
  | spSqueeze
  /-- HASH, format B (R120). -/
  | hash
  /-- DERIVE_ADDRESS, format B (R130). -/
  | deriveAddress
  /-- CHECKSUM, format B (R140). -/
  | checksum
  deriving DecidableEq, Repr

end Sys2Proof
end

