-- ==== Sys2Proof/WellFormed.lean ====
section
/-! DEFINITION. Which operations have a command word: the round index of IOTA and ROUND is 0 to 23 (R62, R64). -/

namespace Sys2Proof

/-- A round index is valid when it is at most 23 (R62); 24 to 31 are reserved (R64, D23). -/
def roundIndexOk (r : RoundIndex) : Bool := decide (r.toNat < Config.rounds)

/-- The operation is one some command word selects (R63). -/
def Instr.wellFormed : Instr → Bool
  | .theta => true
  | .rho => true
  | .pi => true
  | .chi => true
  | .iota r => roundIndexOk r
  | .round r => roundIndexOk r
  | .permute => true
  | .spInit => true
  | .spAbsorb _ => true
  | .spPad => true
  | .spSqueeze => true
  | .hash => true
  | .deriveAddress => true
  | .checksum => true

end Sys2Proof
end

