-- ==== Sys2Proof/Decode.lean ====
section
/-! DEFINITION. The decoder of command words (R60 to R65), the encoder, and the opcode table as rows of pattern and mask (R63). -/

namespace Sys2Proof

/-- Why a word is reserved (R64). -/
inductive DecodeReject where
  /-- The opcode is in no row of R63. -/
  | reservedOpcode
  /-- An operand bit that the format requires to be 0 is not (R61). -/
  | operandNotZero
  /-- A format R word with `r` from 24 to 31 (R64). -/
  | roundIndexReserved
  deriving DecidableEq, Repr

/-- The opcode, `CW[7:0]` (R60). -/
def opcodeOf (w : CommandWord) : Byte := w.setWidth 8

/-- The operand field, `CW[15:8]` (R60). -/
def operandOf (w : CommandWord) : Byte := (w >>> 8).setWidth 8

/-- Formats N and B: the operand field must be 0x00 (R61). -/
def decodeNoOperand (operand : Byte) (i : Instr) : Except DecodeReject Instr :=
  if operand = 0 then .ok i else .error .operandNotZero

/-- Format R: `CW[15:13]` must be 0 and `r = CW[12:8]` at most 23 (R61, R62). -/
def decodeRound (operand : Byte) (make : RoundIndex → Instr) : Except DecodeReject Instr :=
  if operand >>> 5 ≠ 0 then .error .operandNotZero
  else if roundIndexOk (operand.setWidth 5) then .ok (make (operand.setWidth 5))
  else .error .roundIndexReserved

/-- The operation a command word selects, or why the word is reserved (R63, R64). -/
def decode (w : CommandWord) : Except DecodeReject Instr :=
  match (opcodeOf w).toNat with
  | 0x01 => decodeNoOperand (operandOf w) .theta
  | 0x02 => decodeNoOperand (operandOf w) .rho
  | 0x03 => decodeNoOperand (operandOf w) .pi
  | 0x04 => decodeNoOperand (operandOf w) .chi
  | 0x05 => decodeRound (operandOf w) .iota
  | 0x06 => decodeRound (operandOf w) .round
  | 0x07 => decodeNoOperand (operandOf w) .permute
  | 0x10 => decodeNoOperand (operandOf w) .spInit
  | 0x11 => .ok (.spAbsorb (operandOf w))
  | 0x12 => decodeNoOperand (operandOf w) .spPad
  | 0x13 => decodeNoOperand (operandOf w) .spSqueeze
  | 0x20 => decodeNoOperand (operandOf w) .hash
  | 0x30 => decodeNoOperand (operandOf w) .deriveAddress
  | 0x40 => decodeNoOperand (operandOf w) .checksum
  | _ => .error .reservedOpcode

/-- The operation a table row's word selects: all words are 16 bits (R65), bit 0 least significant (R60). -/
def decodeTableWord (nbits w : Nat) : Option Instr :=
  if nbits ≤ 16 ∧ w < 2 ^ 16 then (decode (BitVec.ofNat 16 w)).toOption else none

/-- A command word from its operand field and its opcode (R60). -/
def commandWord (operand opcode : Byte) : CommandWord := operand ++ opcode

/-- The command word of an operation (R61, R63). -/
def encode : Instr → CommandWord
  | .theta => commandWord 0 0x01
  | .rho => commandWord 0 0x02
  | .pi => commandWord 0 0x03
  | .chi => commandWord 0 0x04
  | .iota r => commandWord (r.setWidth 8) 0x05
  | .round r => commandWord (r.setWidth 8) 0x06
  | .permute => commandWord 0 0x07
  | .spInit => commandWord 0 0x10
  | .spAbsorb b => commandWord b 0x11
  | .spPad => commandWord 0 0x12
  | .spSqueeze => commandWord 0 0x13
  | .hash => commandWord 0 0x20
  | .deriveAddress => commandWord 0 0x30
  | .checksum => commandWord 0 0x40

/-- One row of the opcode map (R63): a word is the row's when `CW & mask = pattern`, and `r <= 23` where `indexed`. -/
structure OpcodeRow where
  mnemonic : String
  pattern : CommandWord
  mask : CommandWord
  indexed : Bool
  deriving DecidableEq, Repr

/-- The opcode map of R63, row by row in its order. -/
def opcodeRows : List OpcodeRow :=
  [ ⟨"THETA", 0x0001, 0xFFFF, false⟩,
    ⟨"RHO", 0x0002, 0xFFFF, false⟩,
    ⟨"PI", 0x0003, 0xFFFF, false⟩,
    ⟨"CHI", 0x0004, 0xFFFF, false⟩,
    ⟨"IOTA", 0x0005, 0xE0FF, true⟩,
    ⟨"ROUND", 0x0006, 0xE0FF, true⟩,
    ⟨"PERMUTE", 0x0007, 0xFFFF, false⟩,
    ⟨"SP_INIT", 0x0010, 0xFFFF, false⟩,
    ⟨"SP_ABSORB", 0x0011, 0x00FF, false⟩,
    ⟨"SP_PAD", 0x0012, 0xFFFF, false⟩,
    ⟨"SP_SQUEEZE", 0x0013, 0xFFFF, false⟩,
    ⟨"HASH", 0x0020, 0xFFFF, false⟩,
    ⟨"DERIVE_ADDRESS", 0x0030, 0xFFFF, false⟩,
    ⟨"CHECKSUM", 0x0040, 0xFFFF, false⟩ ]

/-- A word is an operation of the row (R63). -/
def OpcodeRow.selects (row : OpcodeRow) (w : CommandWord) : Bool :=
  decide (w &&& row.mask = row.pattern) && (!row.indexed || decide ((w >>> 8 &&& 0x1F).toNat ≤ 23))

/-- The mnemonic of an operation (R63). -/
def Instr.mnemonic : Instr → String
  | .theta => "THETA"
  | .rho => "RHO"
  | .pi => "PI"
  | .chi => "CHI"
  | .iota _ => "IOTA"
  | .round _ => "ROUND"
  | .permute => "PERMUTE"
  | .spInit => "SP_INIT"
  | .spAbsorb _ => "SP_ABSORB"
  | .spPad => "SP_PAD"
  | .spSqueeze => "SP_SQUEEZE"
  | .hash => "HASH"
  | .deriveAddress => "DERIVE_ADDRESS"
  | .checksum => "CHECKSUM"

end Sys2Proof
end

