-- ==== Sys2Proof/Machine/State.lean ====
section
/-! DEFINITION. The state of one instance of the block (R20), what can stop a step (R159), and the state after reset (R36). -/

namespace Sys2Proof.Machine

/-- `STATUS.PHASE`: where the one in-progress hash computation stands (R26).
The reserved code 3 is never produced (R25) and has no constructor. -/
inductive Phase where
  /-- No hash computation is in progress. -/
  | idle
  /-- SP_INIT has run and SP_PAD has not. -/
  | absorb
  /-- SP_PAD has run: the digest can be squeezed. -/
  | final
  deriving DecidableEq, Repr

/-- `STATUS.ERR`: the error kind of the last host-level operation (R27, R150).
The reserved code 3 is never produced (R25) and has no constructor. -/
inductive ErrCode where
  | none
  | invalidPublicKeyLength
  | invalidAddressFormat
  deriving DecidableEq, Repr

/-- The argument buffer `IN`: (address, byte) pairs, addresses strictly rising.
An unlisted byte holds no value (R36). -/
abbrev Memory := List Host.Cell

/-- What the host may do (R164, R180).
An action lands between two operations, never inside one (R154, R159 X6). -/
inductive HostAction where
  /-- Hand over a command word (R60, R164). -/
  | issue (w : CommandWord)
  /-- Write byte `i` of `IN` (R30, R164). -/
  | writeIn (i : Nat) (b : Byte)
  /-- Write `ILEN` (R30, R164). -/
  | writeIlen (n : Nat)
  /-- Read `STATUS` (R164). -/
  | readStatus
  /-- Read byte `i` of `OUT` (R164). -/
  | readOut (i : Nat)
  /-- Read `OLEN` (R164). -/
  | readOlen
  /-- Reset the block (R180). -/
  | reset
  deriving DecidableEq, Repr

/-- The state. The ten items of R20 with, for those that hold no value after reset (R36), a flag that says whether
they hold one; the instance's `MAX_INPUT_BYTES` (R6); and the model's own host side, `host` and `reply`. -/
structure State where
  /-- `A[0..24]` (R21, R22): lane `(x,y)` is entry `x + 5*y`. -/
  lanes : Lanes
  /-- `POS` (R24). -/
  pos : BitVec 8
  /-- `A` and `POS` hold a value: SP_INIT has run since reset (R36, R101, R159 X3). -/
  lanesHeld : Bool
  /-- `STATUS.PHASE` (R26). -/
  phase : Phase
  /-- `STATUS.ERR` (R27). -/
  err : ErrCode
  /-- `STATUS.OVALID`: `OUT` and `OLEN` hold a result (R28). -/
  ovalid : Bool
  /-- `DG[0..31]` (R29). -/
  digest : Digest
  /-- `DG` holds a value: SP_SQUEEZE has run since reset (R36). Each operation that reads `DG` runs its own SP_SQUEEZE first
  and the host cannot read it (R45), so no read of it can come before this is true. -/
  digestHeld : Bool
  /-- `IN` (R30). -/
  argument : Memory
  /-- `ILEN` (R30). -/
  ilen : Nat
  /-- `ILEN` holds a value: the host has written it since reset (R36). -/
  ilenHeld : Bool
  /-- `OUT[0..39]` (R31). -/
  out : OutBuffer
  /-- `OLEN` (R31). -/
  olen : BitVec 6
  /-- `MAX_INPUT_BYTES`, `none` for no bound (R6, D13): fixed for an instance, written by nothing. -/
  maxInput : Option Nat
  /-- The model's own: the host's actions still to come, the next one first (R23 (a)). -/
  host : List HostAction
  /-- The model's own: what the host's last read returned (R164). -/
  reply : Byte
  deriving DecidableEq, Repr

/-- Why a step stops where an item it reads holds no value or does not exist. All are safe: a real block goes on. -/
inductive Fault where
  /-- X3 (R159): an operation reads `A` or `POS`, which hold no value before the first SP_INIT.
  Raised by THETA, RHO, PI, CHI, IOTA, ROUND, PERMUTE; by SP_ABSORB, SP_PAD and SP_SQUEEZE only in states no run reaches. Safe. -/
  | laneFileHoldsNoValue
  /-- R36, U11: HASH, DERIVE_ADDRESS or CHECKSUM reads `ILEN` or a byte of `IN` that the host has not written. Safe. -/
  | argumentHoldsNoValue
  /-- X5 (R159): the host reads `OUT` or `OLEN` with `OVALID = 0`, or `OUT[OLEN..39]`. Safe. -/
  | resultHoldsNoValue
  /-- R40: the host reads `OUT[i]` with `i` above 39, an address that does not exist. Safe. -/
  | outAddressAbsent
  deriving DecidableEq, Repr

/-- Why the model gives a step no meaning. -/
inductive Refusal where
  /-- The instruction has no meaning in the model yet: raised by a refused arm of `exec`. Safe. -/
  | notModelled (mnemonic : String)
  /-- X1 (R159, R64): the word issued is reserved. Raised by the issue of a word, and by IOTA and ROUND given
  an index above 23, which no word encodes. Safe. -/
  | reservedWord (why : DecodeReject)
  /-- X2 (R159, R26): SP_ABSORB or SP_PAD outside ABSORB, or SP_SQUEEZE outside FINAL. Safe. -/
  | spongeOrder
  /-- X4 (R159): HASH, DERIVE_ADDRESS or CHECKSUM with `ILEN > MAX_INPUT_BYTES`. Safe. -/
  | inputTooLong
  deriving DecidableEq, Repr

/-- What one operation answers. -/
abbrev Result := Host.Outcome State Fault Refusal

/-- The state right after reset (R36, R180): `STATUS` reads 0x00 and every other register holds no value.
The numbers in the items that hold no value are placeholders that nothing reads (DESIGN CHOICE, notes/assumptions/1.md).
`MAX_INPUT_BYTES` is at its default, none (R6). -/
def State.reset : State where
  lanes := Vector.replicate 25 0
  pos := 0
  lanesHeld := false
  phase := .idle
  err := .none
  ovalid := false
  digest := Vector.replicate 32 0
  digestHeld := false
  argument := []
  ilen := 0
  ilenHeld := false
  out := Vector.replicate 40 0
  olen := 0
  maxInput := none
  host := []
  reply := 0

end Sys2Proof.Machine
end

