-- ==== Sys2Proof/Machine/Flags.lean ====
section
/-! DEFINITION. The `STATUS` register: its field codes, its packing, and the two writes that touch its fields `ERR` and `OVALID` (R25 to R28, R156).
The block has no condition codes and no arithmetic flags (R25). -/

namespace Sys2Proof.Machine

/-- The codes of `STATUS.PHASE` (R25). -/
def Phase.code : Phase → BitVec 2
  | .idle => 0
  | .absorb => 1
  | .final => 2

/-- The codes of `STATUS.ERR` (R25, R150). -/
def ErrCode.code : ErrCode → BitVec 2
  | .none => 0
  | .invalidPublicKeyLength => 1
  | .invalidAddressFormat => 2

/-- `STATUS` as the host reads it: `PHASE` in bits 1:0, `ERR` in bits 3:2, `OVALID` in bit 4, bits 7:5 zero (R25). -/
def State.statusWord (s : State) : Byte :=
  (0 : BitVec 3) ++ BitVec.ofBool s.ovalid ++ s.err.code ++ s.phase.code

/-- The start of every host-level operation: `ERR <- NONE; OVALID <- 0` (R27, R28). -/
def State.clearStatus (s : State) : State := { s with err := .none, ovalid := false }

/-- What raising an error writes: `ERR` gets the code and `OVALID` stays 0; nothing else is written (R156). -/
def State.raiseError (s : State) (e : ErrCode) : State := { s with err := e, ovalid := false }

end Sys2Proof.Machine
end

