-- ==== Sys2Proof/Machine/Operands.lean ====
section
/-! DEFINITION. How an operation reaches its operands: lanes by index and by coordinate (R22), the byte view of the state (R41, R42),
nibbles and characters (R9, R55, R56), and bytes of `IN` (R30). -/

namespace Sys2Proof.Machine

/-- `A[i]`, `0 <= i <= 24` (R8). Answers 0 for an index with no lane, which no rule forms (R47). -/
def lane (a : Lanes) (i : Nat) : Lane := a.toList.getD i 0

/-- `A[x,y]` is `A[x + 5*y]` (R22), the indices taken modulo 5 (R88). -/
def laneAt (a : Lanes) (x y : Nat) : Lane := lane a (x % 5 + 5 * (y % 5))

/-- `A[i] <- v` (R8); an index with no lane changes nothing. -/
def setLane (a : Lanes) (i : Nat) (v : Lane) : Lanes := a.setIfInBounds i v

/-- The lane file whose lane `(x,y)` is `f x y`, all 25 computed before any is written (R22, "parallel" in R8). -/
def lanesOf (f : Nat → Nat → Lane) : Lanes :=
  #v[ f 0 0, f 1 0, f 2 0, f 3 0, f 4 0,
      f 0 1, f 1 1, f 2 1, f 3 1, f 4 1,
      f 0 2, f 1 2, f 2 2, f 3 2, f 4 2,
      f 0 3, f 1 3, f 2 3, f 3 3, f 4 3,
      f 0 4, f 1 4, f 2 4, f 3 4, f 4 4 ]

/-- `rotl(v, n)`: 64-bit circular left rotation (R9, R88). -/
def rotl (v : Lane) (n : Nat) : Lane := v.rotateLeft n

/-- `StateByte(i)`, `0 <= i <= 199` (R41). -/
def stateByte (a : Lanes) (i : Nat) : Byte := (lane a (i / 8) >>> (8 * (i % 8))).setWidth 8

/-- `XorStateByte(i, b)`, `0 <= i <= 199` (R42). -/
def xorStateByte (a : Lanes) (i : Nat) (b : Byte) : Lanes :=
  setLane a (i / 8) (lane a (i / 8) ^^^ (b.setWidth 64 <<< (8 * (i % 8))))

/-- `nibble(h, i)`: high nibble of byte `i div 2` for even `i`, low nibble for odd `i` (R9, R56). -/
def nibble (h : List Byte) (i : Nat) : BitVec 4 :=
  if i % 2 = 0 then (h.getD (i / 2) 0 >>> 4).setWidth 4 else (h.getD (i / 2) 0).setWidth 4

/-- `is_digit(c)`: '0' to '9' (R9, R55). -/
def isDigit (c : Byte) : Bool := decide (0x30 ≤ c ∧ c ≤ 0x39)

/-- `is_lower_af(c)`: 'a' to 'f' (R9, R55). -/
def isLowerAF (c : Byte) : Bool := decide (0x61 ≤ c ∧ c ≤ 0x66)

/-- `upper(c)` for a character 'a' to 'f' (R9, R55). -/
def upper (c : Byte) : Byte := c - 0x20

/-- A character of `[0-9a-f]`, the only ones an address text may hold (R141). -/
def isAddressChar (c : Byte) : Bool := isDigit c || isLowerAF c

/-- The character of `"0123456789abcdef"` for a nibble (R9, R55). -/
def hexDigit (v : BitVec 4) : Byte :=
  if v ≤ 9 then 0x30 + v.setWidth 8 else 0x57 + v.setWidth 8

/-- `hex_lower(h)`: the lowercase hex text of a byte string, high nibble first (R9, R56).
The host's conversion; no operation of the block does it (R56, R132). -/
def hexLower (h : List Byte) : List Byte := (List.range (2 * h.length)).map fun i => hexDigit (nibble h i)

/-- Byte `i` of `IN`, or nothing where the host has written none (R36). -/
def memRead : Memory → Nat → Option Byte
  | [], _ => none
  | (k, v) :: rest, i => if k = i then some v else memRead rest i

/-- Write byte `i` of `IN`, keeping addresses strictly rising. -/
def memWrite : Memory → Nat → Byte → Memory
  | [], i, b => [(i, b)]
  | (k, v) :: rest, i, b =>
    if i < k then (i, b) :: (k, v) :: rest
    else if i = k then (i, b) :: rest
    else (k, v) :: memWrite rest i b

/-- The bytes `IN[start]` to `IN[start + n - 1]`, or nothing where one of them holds no value (R30, R36). -/
def readBytes (m : Memory) : Nat → Nat → Option (List Byte)
  | _, 0 => some []
  | start, n + 1 =>
    match memRead m start, readBytes m (start + 1) n with
    | some b, some rest => some (b :: rest)
    | _, _ => none

/-- Whether `IN[start]` to `IN[start + n - 1]` are all address characters, looked at in index order up to the first that is not (R141);
nothing where a byte looked at holds no value (R36). -/
def scanText (m : Memory) : Nat → Nat → Option Bool
  | _, 0 => some true
  | start, n + 1 =>
    match memRead m start with
    | none => none
    | some c => if isAddressChar c then scanText m (start + 1) n else some false

end Sys2Proof.Machine
end

