-- ==== Sys2Proof/Machine/Ops.lean ====
section
/-! DEFINITION. The named operations over the registers: what an operation of each unit may write, the reads that fault where
an item holds no value (R36), raising an error (R156), and what every host-level operation does around its own work. -/

namespace Sys2Proof.Machine

/-- Write all lanes and nothing else: what the Permutation Engine may do (R21, R80). -/
def State.putLanes (s : State) (a : Lanes) : State := { s with lanes := a }

/-- Write the lanes and `POS` (SP_ABSORB, R102). -/
def State.putSponge (s : State) (a : Lanes) (p : BitVec 8) : State := { s with lanes := a, pos := p }

/-- Write `PHASE` (R26). -/
def State.putPhase (s : State) (p : Phase) : State := { s with phase := p }

/-- Record that `A` and `POS` hold a value (R36, R101). -/
def State.holdLanes (s : State) : State := { s with lanesHeld := true }

/-- Write `DG`, which from then on holds a value (R29, R36). -/
def State.putDigest (s : State) (d : Digest) : State := { s with digest := d, digestHeld := true }

/-- `OUT[0..len(r)-1] <- r`, the other bytes of `OUT` as they were (R31). -/
def overwrite (out : OutBuffer) (r : List Byte) : OutBuffer :=
  Vector.ofFn fun i => r.getD i.val (out.toList.getD i.val 0)

/-- The end of a host-level operation that succeeds: the result into `OUT`, its length into `OLEN`, `OVALID <- 1` (R28, R31). -/
def State.deliver (s : State) (r : List Byte) : State :=
  { s with out := overwrite s.out r, olen := BitVec.ofNat 6 r.length, ovalid := true }

/-- Run `f` on the lane file; a fault where `A` holds no value (R159 X3). -/
def onLanes (f : Lanes → Lanes) (s : State) : Result :=
  if s.lanesHeld then .next (s.putLanes (f s.lanes)) else .fault .laneFileHoldsNoValue

/-- A sponge operation: refused unless `PHASE` is the one it is legal in (R26, R159 X2), a fault where `A` holds no value (R36). -/
def inPhase (p : Phase) (f : State → State) (s : State) : Result :=
  if s.phase = p then
    if s.lanesHeld then .next (f s) else .fault .laneFileHoldsNoValue
  else .refused .spongeOrder

/-- `ILEN` is within the instance's `MAX_INPUT_BYTES`; with no bound every length is (R6, R159 X4). -/
def State.withinBound (s : State) : Bool := s.maxInput.all fun bound => decide (s.ilen ≤ bound)

/-- The start of every host-level operation: read `ILEN` (a fault where it holds no value, R36), refuse a length above the bound (R159 X4),
clear `ERR` and `OVALID` (R27, R28), then go on. -/
def hostLevel (body : State → Result) (s : State) : Result :=
  if s.ilenHeld then
    if s.withinBound then body s.clearStatus else .refused .inputTooLong
  else .fault .argumentHoldsNoValue

/-- Raise an error of the block: the operation ends with `ERR` written and nothing else (R156). This is the block's only exception;
nothing is saved, no mode changes and no operation returns from it (R156, R157). -/
def raise (e : ErrCode) (s : State) : Result := .next (s.raiseError e)

/-- Go on with the bytes `IN[start .. start+n-1]`; a fault where one of them holds no value (R30, R36). -/
def withArgument (start n : Nat) (body : List Byte → State → Result) (s : State) : Result :=
  match readBytes s.argument start n with
  | some m => body m s
  | none => .fault .argumentHoldsNoValue

end Sys2Proof.Machine
end

