-- ==== Sys2Proof/Machine/Permutation.lean ====
section
/-! DEFINITION. The Permutation Engine: THETA, RHO, PI, CHI, IOTA, ROUND, PERMUTE (R80 to R88).
Each is a function on lane files, total over its domain (R80), and a meaning that applies it to `A`. -/

namespace Sys2Proof.Machine

/-- The parity `C[x]` of column `x` (R81). -/
def columnParity (a : Lanes) (x : Nat) : Lane :=
  laneAt a x 0 ^^^ laneAt a x 1 ^^^ laneAt a x 2 ^^^ laneAt a x 3 ^^^ laneAt a x 4

/-- `D[x] = C[x-1] ^ rotl(C[x+1], 1)` (R81); `x + 4` is `x - 1` modulo 5. -/
def columnMix (a : Lanes) (x : Nat) : Lane := columnParity a (x + 4) ^^^ rotl (columnParity a (x + 1)) 1

/-- THETA on a lane file (R81). -/
def theta (a : Lanes) : Lanes := lanesOf fun x y => laneAt a x y ^^^ columnMix a x

/-- RHO on a lane file (R82). -/
def rho (a : Lanes) : Lanes := lanesOf fun x y => rotl (laneAt a x y) (rotationOffset (x + 5 * y))

/-- PI on a lane file (R83): the new lane at `(X,Y)` is the old lane at `(x,y)` with `X = y` and `Y = (2x+3y) mod 5`,
which is `x = (X + 3Y) mod 5` and `y = X`. -/
def piMove (a : Lanes) : Lanes := lanesOf fun x y => laneAt a (x + 3 * y) x

/-- CHI on a lane file (R84). -/
def chi (a : Lanes) : Lanes :=
  lanesOf fun x y => laneAt a x y ^^^ (~~~ laneAt a (x + 1) y &&& laneAt a (x + 2) y)

/-- IOTA r on a lane file (R85). -/
def iota (r : Nat) (a : Lanes) : Lanes := setLane a 0 (lane a 0 ^^^ roundConstant r)

/-- ROUND r on a lane file: the five steps in order (R86). -/
def keccakRound (r : Nat) (a : Lanes) : Lanes := iota r (chi (piMove (rho (theta a))))

/-- PERMUTE on a lane file: rounds 0 to 23 in order (R87). -/
def permute (a : Lanes) : Lanes := (List.range Config.rounds).foldl (fun b r => keccakRound r b) a

/-- THETA (R81). -/
def execTheta (s : State) : Result := onLanes theta s

/-- RHO (R82). -/
def execRho (s : State) : Result := onLanes rho s

/-- PI (R83). -/
def execPi (s : State) : Result := onLanes piMove s

/-- CHI (R84). -/
def execChi (s : State) : Result := onLanes chi s

/-- IOTA r (R85). No word carries an index above 23 (R64). -/
def execIota (r : RoundIndex) (s : State) : Result :=
  if roundIndexOk r then onLanes (iota r.toNat) s else .refused (.reservedWord .roundIndexReserved)

/-- ROUND r (R86). No word carries an index above 23 (R64). -/
def execRound (r : RoundIndex) (s : State) : Result :=
  if roundIndexOk r then onLanes (keccakRound r.toNat) s else .refused (.reservedWord .roundIndexReserved)

/-- PERMUTE (R87). -/
def execPermute (s : State) : Result := onLanes permute s

end Sys2Proof.Machine
end

