-- ==== Sys2Proof/Machine/Sponge.lean ====
section
/-! DEFINITION. The Sponge Processor: SP_INIT, SP_ABSORB, SP_PAD, SP_SQUEEZE (R100 to R107), and the one hash that all three
host-level operations run (R105, R184). -/

namespace Sys2Proof.Machine

/-- The effect of SP_INIT (R101). -/
def spongeInit (s : State) : State := ((s.putSponge (Vector.replicate 25 0) 0).putPhase .absorb).holdLanes

/-- The effect of SP_ABSORB b, one byte of input (R102). -/
def spongeAbsorb (b : Byte) (s : State) : State :=
  let absorbed := xorStateByte s.lanes s.pos.toNat b
  if (s.pos + 1).toNat = Config.rate then s.putSponge (permute absorbed) 0
  else s.putSponge absorbed (s.pos + 1)

/-- The two padding bytes XORed into a state whose next free byte is `p` (R103). -/
def padLanes (a : Lanes) (p : Nat) : Lanes :=
  xorStateByte (xorStateByte a p Config.padFirst) (Config.rate - 1) Config.padLast

/-- The effect of SP_PAD (R103). -/
def spongePad (s : State) : State :=
  (s.putSponge (permute (padLanes s.lanes s.pos.toNat)) 0).putPhase .final

/-- The first 32 bytes of the state, lanes 0 to 3 in little-endian byte order (R104). -/
def digestOf (a : Lanes) : Digest := Vector.ofFn fun i => stateByte a i.val

/-- The effect of SP_SQUEEZE (R104). -/
def spongeSqueeze (s : State) : State := (s.putDigest (digestOf s.lanes)).putPhase .idle

/-- SP_INIT; SP_ABSORB m[0]; ...; SP_ABSORB m[n-1]; SP_PAD; SP_SQUEEZE (R105). -/
def hashBytes (m : List Byte) (s : State) : State :=
  spongeSqueeze (spongePad (m.foldl (fun t b => spongeAbsorb b t) (spongeInit s)))

/-- Hash the bytes `m` and deliver what `result` makes of the digest (R120, R130, R140): the one hash of R184, the digest read back
from `DG`, which its SP_SQUEEZE has just written, the result into `OUT`. -/
def hashAndDeliver (result : List Byte → List Byte) (m : List Byte) (s : State) : Result :=
  .next ((hashBytes m s).deliver (result (hashBytes m s).digest.toList))

/-- The absorb phase of R105: each byte XORed at the position, a permutation each time the position reaches 136. -/
def absorbBytes : List Byte → Lanes → Nat → Lanes × Nat
  | [], a, p => (a, p)
  | b :: rest, a, p =>
    if p + 1 = Config.rate then absorbBytes rest (permute (xorStateByte a p b)) 0
    else absorbBytes rest (xorStateByte a p b) (p + 1)

/-- `Keccak256(m)` as R105 writes it, a function of the message alone. -/
def keccak256 (m : List Byte) : Digest :=
  let absorbed := absorbBytes m (Vector.replicate 25 0) 0
  digestOf (permute (padLanes absorbed.1 absorbed.2))

/-- SP_INIT (R101): legal in every phase, whatever holds a value. -/
def execSpInit (s : State) : Result := .next (spongeInit s)

/-- SP_ABSORB b (R102). -/
def execSpAbsorb (b : Byte) (s : State) : Result := inPhase .absorb (spongeAbsorb b) s

/-- SP_PAD (R103). -/
def execSpPad (s : State) : Result := inPhase .absorb spongePad s

/-- SP_SQUEEZE (R104). -/
def execSpSqueeze (s : State) : Result := inPhase .final spongeSqueeze s

end Sys2Proof.Machine
end

