-- ==== Sys2Proof/Machine/AddressDeriver.lean ====
section
/-! DEFINITION. The Address Deriver: DERIVE_ADDRESS (R130 to R132). -/

namespace Sys2Proof.Machine

/-- Digest bytes 12 to 31, the address (R46, R130). -/
def addressOf (dg : List Byte) : List Byte := (dg.drop 12).take Config.addrBytes

/-- The work of DERIVE_ADDRESS once `ERR` and `OVALID` are cleared (R130): the marker `IN[ILEN-65]` is skipped, not read (R53). -/
def deriveAddressBody (s : State) : Result :=
  if s.ilen < Config.keyTail then raise .invalidPublicKeyLength s
  else withArgument (s.ilen - Config.keyTail + 1) (Config.keyTail - 1) (hashAndDeliver addressOf) s

/-- DERIVE_ADDRESS (R130): with fewer than 65 bytes, InvalidPublicKeyLength (R151); else digest bytes 12 to 31 of the hash of
the last 64 bytes of the argument into `OUT[0..19]`. -/
def execDeriveAddress (s : State) : Result := hostLevel deriveAddressBody s

end Sys2Proof.Machine
end

