-- ==== Sys2Proof/Machine/ChecksumFormatter.lean ====
section
/-! DEFINITION. The Checksum Formatter: CHECKSUM (R140 to R143). -/

namespace Sys2Proof.Machine

/-- One output character: a letter under a nibble above 7 in upper case, everything else unchanged (R142). -/
def recase (c : Byte) (v : BitVec 4) : Byte := if isLowerAF c && decide (7 < v) then upper c else c

/-- The 40 output characters, from the text and the digest (R142). -/
def recaseText (text dg : List Byte) : List Byte :=
  (List.range Config.addrChars).map fun i => recase (text.getD i 0) (nibble dg i)

/-- The work of CHECKSUM once `ERR` and `OVALID` are cleared (R140): the length, then the characters in index order (R141), then the hash. -/
def checksumBody (s : State) : Result :=
  if s.ilen = Config.addrChars then
    match scanText s.argument 0 Config.addrChars with
    | none => .fault .argumentHoldsNoValue
    | some false => raise .invalidAddressFormat s
    | some true => withArgument 0 Config.addrChars (fun m t => hashAndDeliver (recaseText m) m t) s
  else raise .invalidAddressFormat s

/-- CHECKSUM (R140): an argument that is not 40 characters of `[0-9a-f]` is InvalidAddressFormat (R141, R152), found before any hashing;
else the text is hashed as its ASCII bytes and recased by the digest's nibbles into `OUT[0..39]`. -/
def execChecksum (s : State) : Result := hostLevel checksumBody s

end Sys2Proof.Machine
end

