-- ==== Sys2Proof/Machine/HashFacade.lean ====
section
/-! DEFINITION. The Hash Facade: HASH (R120 to R122). -/

namespace Sys2Proof.Machine

/-- The work of HASH once `ERR` and `OVALID` are cleared (R120). -/
def hashBody (s : State) : Result := withArgument 0 s.ilen (hashAndDeliver id) s

/-- HASH (R120): the digest of `IN[0..ILEN-1]` into `OUT[0..31]`. -/
def execHash (s : State) : Result := hostLevel hashBody s

end Sys2Proof.Machine
end

