-- ==== Sys2Proof/Machine/Dispatch.lean ====
section
/-! DEFINITION. One arm per operation, each one call of its meaning. -/

namespace Sys2Proof.Machine

def exec (i : Instr) (s : State) : Host.Outcome State Fault Refusal :=
  match i with
  -- the Permutation Engine
  | .theta => Sys2Proof.Machine.execTheta s
  | .rho => Sys2Proof.Machine.execRho s
  | .pi => Sys2Proof.Machine.execPi s
  | .chi => Sys2Proof.Machine.execChi s
  | .iota r => Sys2Proof.Machine.execIota r s
  | .round r => Sys2Proof.Machine.execRound r s
  | .permute => Sys2Proof.Machine.execPermute s
  -- the Sponge Processor
  | .spInit => Sys2Proof.Machine.execSpInit s
  | .spAbsorb b => Sys2Proof.Machine.execSpAbsorb b s
  | .spPad => Sys2Proof.Machine.execSpPad s
  | .spSqueeze => Sys2Proof.Machine.execSpSqueeze s
  -- the Hash Facade, the Address Deriver, the Checksum Formatter
  | .hash => Sys2Proof.Machine.execHash s
  | .deriveAddress => Sys2Proof.Machine.execDeriveAddress s
  | .checksum => Sys2Proof.Machine.execChecksum s

end Sys2Proof.Machine
end

