-- ==== Sys2Proof/Machine/HostPort.lean ====
section
/-! DEFINITION. The host's side of the block (R164, R180): issuing a word, writing the argument, reading the status and the result, reset. -/

namespace Sys2Proof.Machine

/-- Issue a command word: the operation it selects runs, a reserved word is refused (R60, R63, R64, R159 X1). -/
def issueWord (w : CommandWord) (s : State) : Result :=
  match decode w with
  | .ok i => exec i s
  | .error why => .refused (.reservedWord why)

/-- The host writes byte `i` of `IN` (R30, R164). -/
def State.putArgumentByte (s : State) (i : Nat) (b : Byte) : State := { s with argument := memWrite s.argument i b }

/-- The host writes `ILEN`, which from then on holds a value (R30, R36, R164). -/
def State.putIlen (s : State) (n : Nat) : State := { s with ilen := n, ilenHeld := true }

/-- A host read returns `b`; reading changes nothing of the block (R45, R164). -/
def State.putReply (s : State) (b : Byte) : State := { s with reply := b }

/-- The host reads `OUT[i]`: a fault beyond the buffer (R40), and where the byte holds no value (R159 X5). -/
def readOut (i : Nat) (s : State) : Result :=
  if i < 40 then
    if s.ovalid && decide (i < s.olen.toNat) then .next (s.putReply (s.out.toList.getD i 0))
    else .fault .resultHoldsNoValue
  else .fault .outAddressAbsent

/-- The host reads `OLEN`: a fault where it holds no value (R159 X5). -/
def readOlen (s : State) : Result :=
  if s.ovalid then .next (s.putReply (s.olen.setWidth 8)) else .fault .resultHoldsNoValue

/-- The reset event (R180): the reset state (R36) on the same instance, the host's own side as it was. -/
def State.afterReset (s : State) : State :=
  { State.reset with maxInput := s.maxInput, host := s.host, reply := s.reply }

/-- One action of the host. -/
def perform (act : HostAction) (s : State) : Result :=
  match act with
  | .issue w => issueWord w s
  | .writeIn i b => .next (s.putArgumentByte i b)
  | .writeIlen n => .next (s.putIlen n)
  | .readStatus => .next (s.putReply s.statusWord)
  | .readOut i => readOut i s
  | .readOlen => readOlen s
  | .reset => .next s.afterReset

/-- The host's action is taken off the list before it runs: a command word is not read again after the operation starts (R51). -/
def State.putHost (s : State) (acts : List HostAction) : State := { s with host := acts }

/-- The next action of the host; where the host does nothing the block holds its state (R163). -/
def hostStep (s : State) : Result :=
  match s.host with
  | [] => .next s
  | act :: rest => perform act (s.putHost rest)

/-- `s` with the host about to issue the word `w`. Where the host has written no argument yet, it hands over the empty one,
`ILEN = 0` (notes/assumptions/5.md); nothing else changes. -/
def State.issuing (s : State) (w : CommandWord) : State :=
  { s with
    host := .issue w :: s.host
    ilen := if s.ilenHeld then s.ilen else 0
    ilenHeld := true }

end Sys2Proof.Machine
end

