-- ==== Sys2Proof/Machine/Step.lean ====
section
/-! DEFINITION. One step of the machine: the next action of the host (R7, R23). -/

namespace Sys2Proof.Machine

/-- One step: one operation, or one other action of the host, start to end (R7, R164, R186). -/
def step (s : State) : Host.Outcome State Fault Refusal := hostStep s

/-- `s` with the instruction whose bits are `w` where `step` takes its next instruction: the head of the host's list.
Command words are 16 bits (R65), so the bits above `nbits` are zero bits of `w`. -/
def State.withFetchWord (s : State) (_nbits w : Nat) : State := s.issuing (BitVec.ofNat 16 w)

end Sys2Proof.Machine
end

