-- ==== Sys2Proof/Safety.lean ====
section
/-! DEFINITION. The terms claims are made in: the invariant of R38, the canonical form of `IN`, what it means that the host has
written an argument, sequences of operations (R67), the block form of `Keccak256` (R105), and what may change in a step. -/

namespace Sys2Proof

/-- The eleven operations with opcodes below 0x20 (R63). -/
def Instr.unitLevel : Instr → Bool
  | .theta => true
  | .rho => true
  | .pi => true
  | .chi => true
  | .iota _ => true
  | .round _ => true
  | .permute => true
  | .spInit => true
  | .spAbsorb _ => true
  | .spPad => true
  | .spSqueeze => true
  | .hash => false
  | .deriveAddress => false
  | .checksum => false

/-- The seven operations of the Permutation Engine (R5). -/
def Instr.engine : Instr → Bool
  | .theta => true
  | .rho => true
  | .pi => true
  | .chi => true
  | .iota _ => true
  | .round _ => true
  | .permute => true
  | .spInit => false
  | .spAbsorb _ => false
  | .spPad => false
  | .spSqueeze => false
  | .hash => false
  | .deriveAddress => false
  | .checksum => false

end Sys2Proof

namespace Sys2Proof.Machine

/-- The canonical form of `IN`: addresses strictly rising. No entry can equal what an unlisted byte reads as, which is no value. -/
abbrev Memory.wf (m : Memory) : Prop := (m.map Prod.fst).Pairwise (· < ·)

/-- What holds between any two operations: the invariants of R38 that the types do not give already
(25 lanes, a digest of 32 bytes, `PHASE` and `ERR` never 3), the legal order of R26, and the canonical form of `IN`. -/
structure State.Inv (s : State) : Prop where
  /-- "`0 <= POS <= 135` whenever `POS` has a value" (R38, R24). -/
  pos_le : s.lanesHeld = true → s.pos.toNat ≤ 135
  /-- ABSORB and FINAL are reached through SP_INIT (R26), which gives `A` and `POS` their values (R101). -/
  phase_held : s.phase ≠ .idle → s.lanesHeld = true
  /-- SP_PAD sets `POS` to 0 (R103) and nothing legal in FINAL but SP_INIT writes it (R24). -/
  final_pos : s.phase = .final → s.pos = 0
  /-- "when `OVALID` is 1, `OLEN` is 20, 32 or 40 and `ERR` is NONE" (R38). -/
  valid_olen : s.ovalid = true → s.olen = 20 ∨ s.olen = 32 ∨ s.olen = 40
  valid_err : s.ovalid = true → s.err = .none
  /-- A result is made from a digest (R120, R130, R140). -/
  valid_digest : s.ovalid = true → s.digestHeld = true
  argument_wf : s.argument.wf

/-- The host has written the bytes `m` to `IN[start]` and on (R30, R164). -/
def State.holdsBytes (s : State) (start : Nat) (m : List Byte) : Prop :=
  ∀ i, i < m.length → memRead s.argument (start + i) = m[i]?

/-- `ILEN` is written and within the instance's bound: what a host-level operation needs to start (R30, R159 X4). -/
def State.ready (s : State) : Prop := s.ilenHeld = true ∧ ∀ bound, s.maxInput = some bound → s.ilen ≤ bound

/-- Operations one after the other, as an expansion of R67 is written. -/
def execAll : List Instr → State → Result
  | [], s => .next s
  | i :: rest, s =>
    match exec i s with
    | .next t => execAll rest t
    | .fault f => .fault f
    | .refused r => .refused r

/-- `t` is `s` but for the lanes: what a Permutation Engine operation may change (R80, R153). -/
def onlyLanesChange (s t : State) : Prop := t = { s with lanes := t.lanes }

/-- `t` is `s` but for `A`, `POS`, `PHASE`, and that `A` and `POS` hold a value: what SP_INIT, SP_ABSORB and SP_PAD may change (R53). -/
def onlySpongeChanges (s t : State) : Prop :=
  t = { s with lanes := t.lanes, pos := t.pos, phase := t.phase, lanesHeld := t.lanesHeld }

/-- `t` is `s` but for what a host-level operation that succeeds may write (R53). -/
def onlyHostLevelChanges (s t : State) : Prop :=
  t = { s with
    lanes := t.lanes, pos := t.pos, lanesHeld := t.lanesHeld, phase := t.phase, err := t.err, ovalid := t.ovalid,
    digest := t.digest, digestHeld := t.digestHeld, out := t.out, olen := t.olen }

/-- The byte `i` of `OUT`, 0 beyond the buffer. -/
def State.outByte (s : State) (i : Nat) : Byte := s.out.toList.getD i 0

/-- Lower case of a character: 'A' to 'F' become 'a' to 'f', everything else stays (R55). -/
def lowerCase (c : Byte) : Byte := if 0x41 ≤ c ∧ c ≤ 0x46 then c + 0x20 else c

/-- Bytes XORed into the state from byte offset `p` on (R42, R105). -/
def xorBytesAt (a : Lanes) (p : Nat) : List Byte → Lanes
  | [] => a
  | b :: rest => xorBytesAt (xorStateByte a p b) (p + 1) rest

/-- The padded last block `P` of R105, from the `t` message bytes left over, `t <= 135`. -/
def lastBlock (left : List Byte) : List Byte :=
  if left.length = 135 then left ++ [0x81]
  else left ++ [0x01] ++ List.replicate (134 - left.length) 0x00 ++ [0x80]

/-- The block form of R105: `q` full blocks, each XORed in and permuted, then the padded last block. -/
def absorbBlocks : Nat → Lanes → List Byte → Lanes
  | 0, a, m => permute (xorBytesAt a 0 (lastBlock m))
  | q + 1, a, m => absorbBlocks q (permute (xorBytesAt a 0 (m.take 136))) (m.drop 136)

/-- `Keccak256(m)` in block form (R105). -/
def keccak256Blocks (m : List Byte) : Digest :=
  digestOf (absorbBlocks (m.length / 136) (Vector.replicate 25 0) m)

end Sys2Proof.Machine
end

