-- ==== Sys2Proof/Certificates/Slice0/Obligations.lean ====
section
/-! DEFINITION. The statements about this model that are to be proved. Each docstring names the rules of spec/ it formalises. -/

open Sys2Proof Sys2Proof.Machine

/-- O1. A step whose next host action issues a word runs the decoded operation (R7, R23, R51, R60, R63).
Where the host's next action is to issue the word w and w decodes to the operation i, step at s is exec of i at s with that action taken off the host's list; step adds nothing else (the block has no program counter). -/
def Obligations.StepRunsIssuedInstruction : Prop :=
  ∀ (s : State) (w : CommandWord) (i : Instr) (rest : List HostAction),
    s.host = .issue w :: rest → decode w = .ok i → step s = exec i { s with host := rest }

/-- O2. A step whose next host action issues a word that no opcode row selects is refused (R63, R64, R159).
Where the host's next action issues a word that no row of the opcode map selects, step is refused with the refusal for a reserved word (X1). -/
def Obligations.StepRefusesReservedWord : Prop :=
  ∀ (s : State) (w : CommandWord) (rest : List HostAction),
    s.host = .issue w :: rest → (∀ row ∈ opcodeRows, row.selects w = false) →
      ∃ why, step s = .refused (.reservedWord why)

/-- O3. A word decodes to an operation exactly when the opcode row of that mnemonic selects it (R61, R62, R63).
A word that decodes to i is selected by the row of i's mnemonic, and a word selected by a row decodes to an operation of that row's mnemonic; so no word belongs to two rows. -/
def Obligations.DecodeFollowsOpcodeRows : Prop :=
  (∀ w i, decode w = .ok i → ∃ row ∈ opcodeRows, row.mnemonic = i.mnemonic ∧ row.selects w = true) ∧
    ∀ w, ∀ row ∈ opcodeRows, row.selects w = true → ∃ i, decode w = .ok i ∧ i.mnemonic = row.mnemonic

/-- O4. The round index is read from bits 12:8 and the immediate byte from bits 15:8 (R60, R61, R62).
For every legal round index r the word 0x0005 | (r << 8) is IOTA r and 0x0006 | (r << 8) is ROUND r; for every byte b the word 0x0011 | (b << 8) is SP_ABSORB b. -/
def Obligations.DecodeReadsOperandFields : Prop :=
  (∀ r : RoundIndex, r.toNat ≤ 23 →
      decode (0x0005 ||| (r.setWidth 16 <<< 8)) = .ok (.iota r) ∧ decode (0x0006 ||| (r.setWidth 16 <<< 8)) = .ok (.round r)) ∧
    ∀ b : Byte, decode (0x0011 ||| (b.setWidth 16 <<< 8)) = .ok (.spAbsorb b)

/-- O5. Words written out from the encoding tables decode to their operations (R61, R63, R64, 95_test_vectors.md 2.6).
One word of each family, and three reserved words, decode as the spec's decoder vectors say. -/
def Obligations.SampleWordsDecode : Prop :=
  decodeTableWord 16 0b0000000000000001 = some .theta ∧ decodeTableWord 16 0b0001011100000101 = some (.iota 23) ∧
    decodeTableWord 16 0b0110100000010001 = some (.spAbsorb 0x68) ∧ decodeTableWord 16 0b0000000000100000 = some .hash ∧
    decodeTableWord 16 0b0000000000110000 = some .deriveAddress ∧ decodeTableWord 16 0b0000000001000000 = some .checksum ∧
    decodeTableWord 16 0x0101 = none ∧ decodeTableWord 16 0x1805 = none ∧ decodeTableWord 16 0x2006 = none

/-- O6. Decoding the word of a well-formed operation gives the operation back (R60, R61, R62, R63).
For every well-formed operation, with every operand at every value its field admits, decode of its command word is that operation. -/
def Obligations.EncodeThenDecodeReturnsInstruction : Prop :=
  ∀ i : Instr, i.wellFormed = true → decode (encode i) = .ok i

/-- O7. A word that decodes is the one word of a well-formed operation (R60, R61, R62, R63, R64).
If a word decodes to i then i is well formed and the word is i's command word: no bit of a legal word is ignored and no operation has two words. -/
def Obligations.DecodedWordIsItsEncoding : Prop :=
  ∀ w i, decode w = .ok i → i.wellFormed = true ∧ encode i = w

/-- O8. THETA XORs into every lane the mix of the two neighbouring column parities (R81).
Where A holds a value, THETA completes; with C[x] the XOR of column x and D[x] = C[x-1] ^ rotl(C[x+1],1), lane (x,y) becomes A[x,y] ^ D[x], all from the state before; nothing but the lanes changes. Its word is 0x0001. -/
def Obligations.ThetaMixesColumnParities : Prop :=
  decode 0x0001 = .ok .theta ∧
    ∀ s : State, s.lanesHeld = true →
      ∃ (t : State) (c d : Nat → Lane), exec .theta s = .next t ∧ onlyLanesChange s t ∧
        (∀ x, x < 5 → c x = lane s.lanes x ^^^ lane s.lanes (x + 5) ^^^ lane s.lanes (x + 10) ^^^ lane s.lanes (x + 15) ^^^
          lane s.lanes (x + 20)) ∧
        (∀ x, x < 5 → d x = c ((x + 4) % 5) ^^^ (c ((x + 1) % 5)).rotateLeft 1) ∧
        ∀ x y, x < 5 → y < 5 → lane t.lanes (x + 5 * y) = lane s.lanes (x + 5 * y) ^^^ d x

/-- O9. RHO moves bit j of lane i to bit (j + ROT[i]) mod 64 (R82).
Where A holds a value, RHO completes; every lane i is rotated left by ROT[i] on 64 bits, said bit by bit; nothing but the lanes changes. Its word is 0x0002. -/
def Obligations.RhoRotatesEachLaneByItsOffset : Prop :=
  decode 0x0002 = .ok .rho ∧
    ∀ s : State, s.lanesHeld = true →
      ∃ t : State, exec .rho s = .next t ∧ onlyLanesChange s t ∧
        ∀ i j, i < 25 → j < 64 →
          (lane t.lanes i).getLsbD ((j + rotationOffset i) % 64) = (lane s.lanes i).getLsbD j

/-- O10. PI moves the lane at (x,y) to (y, (2x+3y) mod 5) (R83).
Where A holds a value, PI completes; the lane originally at (x,y) is at (y, (2x+3y) mod 5) afterwards, for all x and y; nothing but the lanes changes. Its word is 0x0003. -/
def Obligations.PiMovesEachLane : Prop :=
  decode 0x0003 = .ok .pi ∧
    ∀ s : State, s.lanesHeld = true →
      ∃ t : State, exec .pi s = .next t ∧ onlyLanesChange s t ∧
        ∀ x y, x < 5 → y < 5 → lane t.lanes (y + 5 * ((2 * x + 3 * y) % 5)) = lane s.lanes (x + 5 * y)

/-- O11. CHI gives lane (x,y) the value B[x,y] ^ (~B[x+1,y] & B[x+2,y]) (R84).
Where A holds a value, CHI completes; every lane is combined with the next two of its row, all read from the state before; nothing but the lanes changes. Its word is 0x0004. -/
def Obligations.ChiCombinesRowNeighbours : Prop :=
  decode 0x0004 = .ok .chi ∧
    ∀ s : State, s.lanesHeld = true →
      ∃ t : State, exec .chi s = .next t ∧ onlyLanesChange s t ∧
        ∀ x y, x < 5 → y < 5 →
          lane t.lanes (x + 5 * y) =
            lane s.lanes (x + 5 * y) ^^^
              (~~~ lane s.lanes ((x + 1) % 5 + 5 * y) &&& lane s.lanes ((x + 2) % 5 + 5 * y))

/-- O12. IOTA r XORs RC[r] into lane 0 and changes no other lane (R85).
Where A holds a value and r is 0 to 23, IOTA r completes; lane 0 is XORed with RC[r] and lanes 1 to 24 and everything beside the lanes stay. Its word is 0x0005 | (r << 8). -/
def Obligations.IotaXorsRoundConstantIntoLaneZero : Prop :=
  ∀ r : RoundIndex, r.toNat ≤ 23 →
      decode (0x0005 ||| (r.setWidth 16 <<< 8)) = .ok (.iota r) ∧
      ∀ s : State, s.lanesHeld = true →
        ∃ t : State, exec (.iota r) s = .next t ∧ onlyLanesChange s t ∧
          lane t.lanes 0 = lane s.lanes 0 ^^^ roundConstant r.toNat ∧
          ∀ i, 1 ≤ i → i < 25 → lane t.lanes i = lane s.lanes i

/-- O13. ROUND r completes with the fused form of theta, rho, pi, chi, iota r, and equals those five operations in order (R86).
Where A holds a value and r is 0 to 23, ROUND r completes and answers what THETA, RHO, PI, CHI, IOTA r one after the other answer; the lanes it leaves are those of the fused form; nothing but the lanes changes. Its word is 0x0006 | (r << 8). -/
def Obligations.RoundHasFusedForm : Prop :=
  ∀ r : RoundIndex, r.toNat ≤ 23 →
      decode (0x0006 ||| (r.setWidth 16 <<< 8)) = .ok (.round r) ∧
      ∀ s : State, s.lanesHeld = true →
        ∃ (t : State) (c d : Nat → Lane) (b : Nat → Nat → Lane), exec (.round r) s = .next t ∧ onlyLanesChange s t ∧
          execAll [.theta, .rho, .pi, .chi, .iota r] s = .next t ∧
          (∀ x, x < 5 → c x = lane s.lanes x ^^^ lane s.lanes (x + 5) ^^^ lane s.lanes (x + 10) ^^^ lane s.lanes (x + 15) ^^^
            lane s.lanes (x + 20)) ∧
          (∀ x, x < 5 → d x = c ((x + 4) % 5) ^^^ (c ((x + 1) % 5)).rotateLeft 1) ∧
          (∀ x y, x < 5 → y < 5 →
            b y ((2 * x + 3 * y) % 5) = (lane s.lanes (x + 5 * y) ^^^ d x).rotateLeft (rotationOffset (x + 5 * y))) ∧
          ∀ x y, x < 5 → y < 5 →
            lane t.lanes (x + 5 * y) =
              (b x y ^^^ (~~~ b ((x + 1) % 5) y &&& b ((x + 2) % 5) y)) ^^^
                (if x = 0 ∧ y = 0 then roundConstant r.toNat else 0)

/-- O14. PERMUTE completes with what ROUND 0 to ROUND 23 issued one after the other leave (R87).
Where A holds a value, PERMUTE completes and answers what the 24 operations ROUND 0, ..., ROUND 23 in order answer; nothing but the lanes changes. Its word is 0x0007. -/
def Obligations.PermuteIsTwentyFourRounds : Prop :=
  decode 0x0007 = .ok .permute ∧
    ∀ s : State, s.lanesHeld = true →
      ∃ t : State, exec .permute s = .next t ∧ onlyLanesChange s t ∧
        execAll ((List.range 24).map fun r => .round (BitVec.ofNat 5 r)) s = .next t

/-- O15. An engine operation's lanes are a function of the lanes it starts from (R80, R87).
Two states whose A holds a value and is equal get equal lanes from the same Permutation Engine operation, whatever else differs (PHASE, POS, IN, OUT and all the rest). -/
def Obligations.EngineResultDependsOnLanesOnly : Prop :=
  ∀ (i : Instr) (s s' t : State), i.engine = true → s.lanesHeld = true → s'.lanesHeld = true → s.lanes = s'.lanes →
    exec i s = .next t → ∃ t', exec i s' = .next t' ∧ t'.lanes = t.lanes

/-- O16. An operation that reads A before any SP_INIT is a fault (X3) (R36, R159, R26).
Where A holds no value, the seven Permutation Engine operations with legal operands fault, and so do SP_ABSORB, SP_PAD and SP_SQUEEZE in the phase they are legal in (states no run reaches; the model's choice, log 6). -/
def Obligations.OperationsFaultWhileLanesHoldNoValue : Prop :=
  ∀ s : State, s.lanesHeld = false →
      (∀ i : Instr, i.engine = true → i.wellFormed = true → exec i s = .fault .laneFileHoldsNoValue) ∧
      (s.phase = .absorb → (∀ b, exec (.spAbsorb b) s = .fault .laneFileHoldsNoValue) ∧
        exec .spPad s = .fault .laneFileHoldsNoValue) ∧
      (s.phase = .final → exec .spSqueeze s = .fault .laneFileHoldsNoValue)

/-- O17. IOTA and ROUND with an index of 24 to 31 are refused (R62, R64).
No command word carries a round index above 23; the model refuses IOTA and ROUND given one (the model's choice for an operation no word encodes, log 6; D23 refuses the word). -/
def Obligations.ReservedRoundIndexIsRefused : Prop :=
  ∀ (s : State) (r : RoundIndex), 23 < r.toNat →
    exec (.iota r) s = .refused (.reservedWord .roundIndexReserved) ∧
      exec (.round r) s = .refused (.reservedWord .roundIndexReserved)

/-- O18. PI applied 24 times in a row restores every state (R83, 95_test_vectors.md V-PI-3).
Where A holds a value, 24 PI operations in a row complete and leave the state they started from. -/
def Obligations.PiHasOrderTwentyFour : Prop :=
  ∀ s : State, s.lanesHeld = true → execAll (List.replicate 24 .pi) s = .next s

/-- O19. SP_INIT completes in every state, zeroes the lanes and POS and sets PHASE to ABSORB (R101).
In every state SP_INIT completes: all 25 lanes are zero, POS is 0, PHASE is ABSORB, A and POS hold a value; nothing else changes. Its word is 0x0010. -/
def Obligations.SpInitStartsHash : Prop :=
  decode 0x0010 = .ok .spInit ∧
    ∀ s : State, ∃ t : State, exec .spInit s = .next t ∧ onlySpongeChanges s t ∧
      (∀ i, i < 25 → lane t.lanes i = 0) ∧ t.pos = 0 ∧ t.phase = .absorb ∧ t.lanesHeld = true

/-- O20. SP_ABSORB XORs its byte at state byte POS, advances POS, and permutes when the block is full (R102).
Outside ABSORB it is refused. In ABSORB, with A holding a value and POS in its range, it completes: the state byte POS is XORed with b and no other of the 200 state bytes changes; if POS was 135 the lanes are then permuted once and POS is 0, else POS is one more; nothing but lanes and POS changes. Its word is 0x0011 | (b << 8). -/
def Obligations.SpAbsorbXorsByteAndPermutesFullBlock : Prop :=
  ∀ b : Byte, decode (0x0011 ||| (b.setWidth 16 <<< 8)) = .ok (.spAbsorb b) ∧
    ∀ s : State,
      (s.phase ≠ .absorb → exec (.spAbsorb b) s = .refused .spongeOrder) ∧
      (s.phase = .absorb → s.lanesHeld = true → s.pos.toNat ≤ 135 →
        ∃ (t : State) (absorbed : Lanes), exec (.spAbsorb b) s = .next t ∧ t = { s with lanes := t.lanes, pos := t.pos } ∧
          (∀ i, i < 200 → stateByte absorbed i = if i = s.pos.toNat then stateByte s.lanes i ^^^ b else stateByte s.lanes i) ∧
          if s.pos.toNat = 135 then
            exec .permute { s with lanes := absorbed } = .next { s with lanes := t.lanes } ∧ t.pos = 0
          else t.lanes = absorbed ∧ t.pos.toNat = s.pos.toNat + 1)

/-- O21. SP_PAD XORs 0x01 at state byte POS and 0x80 at byte 135, permutes once, and sets POS 0 and PHASE FINAL (R103).
Outside ABSORB it is refused. In ABSORB, with A holding a value and POS in its range, it completes: 0x01 at byte POS and 0x80 at byte 135 (0x81 where they coincide) are XORed in, no other state byte changes, the lanes are permuted once, POS is 0 and PHASE FINAL; nothing else changes. Its word is 0x0012. -/
def Obligations.SpPadPadsAndPermutes : Prop :=
  decode 0x0012 = .ok .spPad ∧
    ∀ s : State,
      (s.phase ≠ .absorb → exec .spPad s = .refused .spongeOrder) ∧
      (s.phase = .absorb → s.lanesHeld = true → s.pos.toNat ≤ 135 →
        ∃ (t : State) (padded : Lanes), exec .spPad s = .next t ∧
          t = { s with lanes := t.lanes, pos := 0, phase := .final } ∧
          (∀ i, i < 200 → stateByte padded i =
            stateByte s.lanes i ^^^ (if i = s.pos.toNat then 0x01 else 0x00) ^^^ (if i = 135 then 0x80 else 0x00)) ∧
          exec .permute { s with lanes := padded } = .next { s with lanes := t.lanes })

/-- O22. SP_SQUEEZE copies state bytes 0 to 31 into DG and sets PHASE to IDLE (R104).
Outside FINAL it is refused. In FINAL, with A holding a value, it completes: DG[i] is bits 8*(i mod 8)+7 to 8*(i mod 8) of lane i div 8 for i 0 to 31, DG holds a value, PHASE is IDLE; A, POS and everything else stay. Its word is 0x0013. -/
def Obligations.SpSqueezeReadsDigest : Prop :=
  decode 0x0013 = .ok .spSqueeze ∧
    ∀ s : State,
      (s.phase ≠ .final → exec .spSqueeze s = .refused .spongeOrder) ∧
      (s.phase = .final → s.lanesHeld = true →
        ∃ t : State, exec .spSqueeze s = .next t ∧
          t = { s with digest := t.digest, digestHeld := true, phase := .idle } ∧
          ∀ i, i < 32 → t.digest.toList.getD i 0 = (lane s.lanes (i / 8)).extractLsb' (8 * (i % 8)) 8)

/-- O23. Absorbing byte by byte and absorbing padded 136-byte blocks give the same digest, for every message (R105, R106).
For every byte string, Keccak256 taken a byte at a time equals its block form: each full 136-byte chunk XORed in and permuted, the padded last block XORed in and permuted, state bytes 0 to 31 read. -/
def Obligations.KeccakBlockFormEqualsByteForm : Prop :=
  ∀ m : List Byte, keccak256 m = keccak256Blocks m

/-- O24. SP_INIT, one SP_ABSORB per byte, SP_PAD, SP_SQUEEZE leave Keccak256 of the bytes in DG, from any state (R105, R67).
From every state and for every byte string m, the sequence SP_INIT; SP_ABSORB m[0]; ...; SP_PAD; SP_SQUEEZE completes with DG = Keccak256(m), PHASE IDLE and POS 0, and leaves ERR, OVALID, OUT, OLEN, IN and ILEN as they were. -/
def Obligations.UnitSequenceComputesKeccak256 : Prop :=
  ∀ (s : State) (m : List Byte),
    ∃ t : State, execAll (.spInit :: m.map .spAbsorb ++ [.spPad, .spSqueeze]) s = .next t ∧
      t.digest = keccak256 m ∧ t.digestHeld = true ∧ t.phase = .idle ∧ t.pos = 0 ∧
      t = { s with lanes := t.lanes, pos := t.pos, lanesHeld := true, phase := .idle, digest := t.digest, digestHeld := true }

/-- O25. HASH leaves Keccak256 of IN[0..ILEN-1] in OUT[0..31], in every phase (R120).
With ILEN above the bound HASH is refused. With ILEN written and within the bound and the bytes m of IN[0..ILEN-1] written, it completes in every phase: OUT[0..31] and DG are Keccak256(m), OLEN 32, OVALID 1, ERR NONE, PHASE IDLE, POS 0; IN, ILEN and the rest stay. Its word is 0x0020. -/
def Obligations.HashDeliversKeccak256OfArgument : Prop :=
  decode 0x0020 = .ok .hash ∧
    ∀ s : State,
      (∀ bound, s.ilenHeld = true → s.maxInput = some bound → bound < s.ilen → exec .hash s = .refused .inputTooLong) ∧
      ∀ m : List Byte, s.ready → m.length = s.ilen → s.holdsBytes 0 m →
        ∃ t : State, exec .hash s = .next t ∧ onlyHostLevelChanges s t ∧
          (∀ i, i < 32 → t.outByte i = (keccak256 m).toList.getD i 0) ∧
          t.digest = keccak256 m ∧ t.olen = 32 ∧ t.ovalid = true ∧ t.err = .none ∧ t.phase = .idle ∧ t.pos = 0

/-- O26. HASH and the unit-level sequence over the same bytes leave the same lanes, POS, PHASE and DG (R67, R120).
Where HASH can run on the bytes m, it completes and so does its expansion SP_INIT; SP_ABSORB each byte; SP_PAD; SP_SQUEEZE, and both leave the same A, POS, PHASE and DG, and OUT[0..31] of HASH is the expansion's DG. -/
def Obligations.HashEqualsItsExpansion : Prop :=
  ∀ (s : State) (m : List Byte), s.ready → m.length = s.ilen → s.holdsBytes 0 m →
    ∃ t u : State, exec .hash s = .next t ∧
      execAll (.spInit :: m.map .spAbsorb ++ [.spPad, .spSqueeze]) s = .next u ∧
      t.lanes = u.lanes ∧ t.pos = u.pos ∧ t.phase = u.phase ∧ t.digest = u.digest ∧
      ∀ i, i < 32 → t.outByte i = u.digest.toList.getD i 0

/-- O27. DERIVE_ADDRESS returns digest bytes 12 to 31 of the last 64 argument bytes, or the length error (R130).
With ILEN above the bound it is refused. With fewer than 65 bytes it completes with ERR InvalidPublicKeyLength and OVALID 0 and changes nothing else. With 65 or more, the last 64 being the bytes k (the marker before them not read), it completes in every phase: OUT[0..19] is Keccak256(k)[12..31], OLEN 20, OVALID 1, ERR NONE, PHASE IDLE. Its word is 0x0030. -/
def Obligations.DeriveAddressTakesDigestTail : Prop :=
  decode 0x0030 = .ok .deriveAddress ∧
    ∀ s : State,
      (∀ bound, s.ilenHeld = true → s.maxInput = some bound → bound < s.ilen → exec .deriveAddress s = .refused .inputTooLong) ∧
      (s.ready → s.ilen < 65 →
        exec .deriveAddress s = .next { s with err := .invalidPublicKeyLength, ovalid := false }) ∧
      ∀ k : List Byte, s.ready → 65 ≤ s.ilen → k.length = 64 → s.holdsBytes (s.ilen - 64) k →
        ∃ t : State, exec .deriveAddress s = .next t ∧ onlyHostLevelChanges s t ∧
          (∀ i, i < 20 → t.outByte i = (keccak256 k).toList.getD (12 + i) 0) ∧
          t.digest = keccak256 k ∧ t.olen = 20 ∧ t.ovalid = true ∧ t.err = .none ∧ t.phase = .idle

/-- O28. Two arguments that agree in their last 64 bytes give the same address (R130, R131, R68).
If DERIVE_ADDRESS completes in two states with at least 65 argument bytes each and the same last 64 bytes, OUT[0..19] is the same: the marker and every byte before it do not matter, nor do the lengths. -/
def Obligations.DeriveAddressIgnoresMarkerAndPrefix : Prop :=
  ∀ s s' t t' : State, 65 ≤ s.ilen → 65 ≤ s'.ilen →
    (∀ i, i < 64 → memRead s.argument (s.ilen - 64 + i) = memRead s'.argument (s'.ilen - 64 + i)) →
    exec .deriveAddress s = .next t → exec .deriveAddress s' = .next t' →
    ∀ i, i < 20 → t.outByte i = t'.outByte i

/-- O29. CHECKSUM raises exactly the letters under a digest nibble above 7, and rejects an argument that is no address text (R140, R142).
With ILEN above the bound it is refused. With ILEN not 40, or 40 written bytes one of which is not in [0-9a-f], it completes with ERR InvalidAddressFormat and OVALID 0 and changes nothing else. With 40 bytes m of [0-9a-f] it completes in every phase: OUT[i] is m[i] - 0x20 where m[i] is a to f and nibble i of Keccak256(m) is above 7, else m[i]; OLEN 40, OVALID 1, ERR NONE, PHASE IDLE, DG = Keccak256(m). Its word is 0x0040. -/
def Obligations.ChecksumRecasesAddressText : Prop :=
  decode 0x0040 = .ok .checksum ∧
    ∀ s : State,
      (∀ bound, s.ilenHeld = true → s.maxInput = some bound → bound < s.ilen → exec .checksum s = .refused .inputTooLong) ∧
      (s.ready → s.ilen ≠ 40 →
        exec .checksum s = .next { s with err := .invalidAddressFormat, ovalid := false }) ∧
      ∀ m : List Byte, s.ready → s.ilen = 40 → m.length = 40 → s.holdsBytes 0 m →
        ((∃ c ∈ m, ¬ ((0x30 ≤ c ∧ c ≤ 0x39) ∨ (0x61 ≤ c ∧ c ≤ 0x66))) →
          exec .checksum s = .next { s with err := .invalidAddressFormat, ovalid := false }) ∧
        ((∀ c ∈ m, (0x30 ≤ c ∧ c ≤ 0x39) ∨ (0x61 ≤ c ∧ c ≤ 0x66)) →
          ∃ t : State, exec .checksum s = .next t ∧ onlyHostLevelChanges s t ∧
            (∀ i, i < 40 →
              t.outByte i =
                if 0x61 ≤ m.getD i 0 ∧ m.getD i 0 ≤ 0x66 ∧
                    7 < (if i % 2 = 0 then (keccak256 m).toList.getD (i / 2) 0 >>> 4
                      else (keccak256 m).toList.getD (i / 2) 0 &&& 0x0F)
                then m.getD i 0 - 0x20 else m.getD i 0) ∧
            t.digest = keccak256 m ∧ t.olen = 40 ∧ t.ovalid = true ∧ t.err = .none ∧ t.phase = .idle)

/-- O30. CHECKSUM changes nothing of a character but its case, and no digit at all (R143, R38).
If CHECKSUM completes without error, every output character lower-cased is the input character at its place, and a digit is unchanged; so a text without letters comes back as it was. -/
def Obligations.ChecksumChangesOnlyLetterCase : Prop :=
  ∀ s t : State, exec .checksum s = .next t → t.ovalid = true →
    ∀ i c, i < 40 → memRead s.argument i = some c →
      lowerCase (t.outByte i) = c ∧ (0x30 ≤ c ∧ c ≤ 0x39 → t.outByte i = c)

/-- O31. CHECKSUM of the lower-cased output gives the same output (R143, 95_test_vectors.md P-S8-2).
If CHECKSUM completes without error in one state, then in every state that is ready with the 40 lower-cased output characters as its argument it completes without error and gives the same 40 characters. -/
def Obligations.ChecksumIsIdempotent : Prop :=
  ∀ s t s' : State, exec .checksum s = .next t → t.ovalid = true →
    s'.ready → s'.ilen = 40 → s'.holdsBytes 0 ((List.range 40).map fun i => lowerCase (t.outByte i)) →
    ∃ t' : State, exec .checksum s' = .next t' ∧ t'.ovalid = true ∧ ∀ i, i < 40 → t'.outByte i = t.outByte i

/-- O32. The lowercase hex text of 20 bytes is 40 address characters spelling the bytes high nibble first (R56, R132, R141).
For every 20 bytes, hex_lower gives 40 characters, each one CHECKSUM accepts, and character 2i and 2i+1 stand for the high and the low nibble of byte i. -/
def Obligations.HexTextOfAddressIsAccepted : Prop :=
  ∀ h : List Byte, h.length = 20 →
    (hexLower h).length = 40 ∧ (∀ c ∈ hexLower h, isAddressChar c = true) ∧
    ∀ i, i < 20 →
      (hexLower h).getD (2 * i) 0 = hexDigit ((h.getD i 0).extractLsb' 4 4) ∧
      (hexLower h).getD (2 * i + 1) 0 = hexDigit ((h.getD i 0).extractLsb' 0 4)

/-- O33. InvalidPublicKeyLength is raised by DERIVE_ADDRESS exactly when ILEN is below 65 (R151).
Where ILEN is written and within the bound and below 65, DERIVE_ADDRESS completes with ERR InvalidPublicKeyLength; and whenever it completes, ERR is InvalidPublicKeyLength exactly if ILEN is below 65. -/
def Obligations.KeyLengthErrorExactlyBelowSixtyFive : Prop :=
  ∀ s : State,
    (s.ready → s.ilen < 65 → ∃ t, exec .deriveAddress s = .next t ∧ t.err = .invalidPublicKeyLength ∧ t.ovalid = false) ∧
    ∀ t, exec .deriveAddress s = .next t → (t.err = .invalidPublicKeyLength ↔ s.ilen < 65)

/-- O34. InvalidAddressFormat is raised by CHECKSUM exactly when the argument is not 40 characters of [0-9a-f] (R141, R152).
Whenever CHECKSUM completes, ERR is InvalidAddressFormat exactly if ILEN is not 40 or the bytes IN[0..39] are not all written characters 0x30 to 0x39 or 0x61 to 0x66; and an argument invalid at a written byte after written valid ones, or by its length, does make it complete so. (That a bad character ends the operation before a later unwritten byte is looked at is the model's reading of R141's index order, log 12.) -/
def Obligations.AddressFormatErrorExactlyWhenInvalid : Prop :=
  ∀ s : State,
    (∀ t, exec .checksum s = .next t →
      (t.err = .invalidAddressFormat ↔
        ¬ (s.ilen = 40 ∧ ∀ i, i < 40 → ∃ c, memRead s.argument i = some c ∧
          ((0x30 ≤ c ∧ c ≤ 0x39) ∨ (0x61 ≤ c ∧ c ≤ 0x66))))) ∧
    (s.ready → s.ilen ≠ 40 → ∃ t, exec .checksum s = .next t ∧ t.err = .invalidAddressFormat) ∧
    ∀ k c, s.ready → s.ilen = 40 → k < 40 → memRead s.argument k = some c →
      ¬ ((0x30 ≤ c ∧ c ≤ 0x39) ∨ (0x61 ≤ c ∧ c ≤ 0x66)) →
      (∀ i, i < k → ∃ e, memRead s.argument i = some e ∧ ((0x30 ≤ e ∧ e ≤ 0x39) ∨ (0x61 ≤ e ∧ e ≤ 0x66))) →
      ∃ t, exec .checksum s = .next t ∧ t.err = .invalidAddressFormat

/-- O35. An operation that ends in an error writes ERR and OVALID and nothing else (R156).
If a host-level operation completes with an error, the state after it is the state before with ERR the code and OVALID 0: A, POS, PHASE, DG, OUT, OLEN, IN, ILEN as they were. -/
def Obligations.ErrorWritesOnlyStatus : Prop :=
  ∀ (i : Instr) (s t : State), i.unitLevel = false → exec i s = .next t → t.err ≠ .none →
    t = { s with err := t.err, ovalid := false }

/-- O36. Unit-level operations keep ERR; each host-level operation writes NONE or its own error, with codes 1 and 2 (R27).
Whenever an operation completes: a unit-level one leaves ERR; HASH leaves NONE; DERIVE_ADDRESS leaves NONE or InvalidPublicKeyLength; CHECKSUM leaves NONE or InvalidAddressFormat. The codes are 0, 1 and 2. -/
def Obligations.ErrHoldsKindOfLastHostLevelOperation : Prop :=
  (∀ (i : Instr) (s t : State), i.unitLevel = true → exec i s = .next t → t.err = s.err) ∧
    (∀ s t : State, exec .hash s = .next t → t.err = .none) ∧
    (∀ s t : State, exec .deriveAddress s = .next t → t.err = .none ∨ t.err = .invalidPublicKeyLength) ∧
    (∀ s t : State, exec .checksum s = .next t → t.err = .none ∨ t.err = .invalidAddressFormat) ∧
    ErrCode.none.code = 0 ∧ ErrCode.invalidPublicKeyLength.code = 1 ∧ ErrCode.invalidAddressFormat.code = 2

/-- O37. OVALID is 1 after a host-level operation exactly when it ended without error; unit-level operations never write OVALID, OUT, OLEN (R28).
Whenever a host-level operation completes, OVALID is 1 exactly if ERR is NONE; a unit-level one that completes leaves OVALID, OUT and OLEN; and where OVALID is 0 a host read of OLEN or of any byte OUT[0..39] is a fault. -/
def Obligations.OvalidTellsSuccess : Prop :=
  (∀ (i : Instr) (s t : State), i.unitLevel = false → exec i s = .next t → (t.ovalid = true ↔ t.err = .none)) ∧
    (∀ (i : Instr) (s t : State), i.unitLevel = true → exec i s = .next t →
      t.ovalid = s.ovalid ∧ t.out = s.out ∧ t.olen = s.olen) ∧
    ∀ (s : State) (rest : List HostAction), s.ovalid = false →
      (s.host = .readOlen :: rest → step s = .fault .resultHoldsNoValue) ∧
      ∀ i, i < 40 → s.host = .readOut i :: rest → step s = .fault .resultHoldsNoValue

/-- O38. A host-level operation with ILEN above MAX_INPUT_BYTES is refused (X4) (R6, R30, R159).
On an instance with a bound, HASH, DERIVE_ADDRESS and CHECKSUM with a written ILEN above it are refused, whatever else the state holds. -/
def Obligations.InputAboveBoundIsRefused : Prop :=
  ∀ (i : Instr) (s : State) (bound : Nat), i.unitLevel = false → s.ilenHeld = true → s.maxInput = some bound →
    bound < s.ilen → exec i s = .refused .inputTooLong

/-- O39. A host-level operation that reads ILEN or an argument byte nobody wrote is a fault (R36, R53, 93_implementation_defined.md U11).
With ILEN unwritten all three host-level operations fault. With ILEN written and within the bound: HASH faults if some IN[k], k < ILEN, is unwritten; DERIVE_ADDRESS with 65 or more faults if one of the last 64 is; CHECKSUM with 40 faults if IN[k] is and all before it are written address characters (that an earlier bad character ends it first is the model's reading of R141, log 12). -/
def Obligations.UnwrittenArgumentIsFault : Prop :=
  (∀ (i : Instr) (s : State), i.unitLevel = false → s.ilenHeld = false → exec i s = .fault .argumentHoldsNoValue) ∧
    ∀ (s : State) (k : Nat), s.ready →
      (k < s.ilen → memRead s.argument k = none → exec .hash s = .fault .argumentHoldsNoValue) ∧
      (65 ≤ s.ilen → k < 64 → memRead s.argument (s.ilen - 64 + k) = none →
        exec .deriveAddress s = .fault .argumentHoldsNoValue) ∧
      (s.ilen = 40 → k < 40 → memRead s.argument k = none →
        (∀ j, j < k → ∃ c, memRead s.argument j = some c ∧ isAddressChar c = true) →
        exec .checksum s = .fault .argumentHoldsNoValue)

/-- O40. The result of HASH, DERIVE_ADDRESS and CHECKSUM, error included, is a function of IN and ILEN alone (R35, R105, R181).
Take two states of instances with the same bound that agree on ILEN and on the bytes IN[0..ILEN-1] and may differ in everything else (A, POS, PHASE, ERR, OVALID, DG, OUT, OLEN). If a host-level operation completes in one it completes in the other with the same ERR and OVALID and, where it succeeds, the same OLEN, the same OUT[0..OLEN-1], the same DG and the same lanes. -/
def Obligations.HostLevelResultDependsOnArgumentOnly : Prop :=
  ∀ (i : Instr) (s s' t : State), i.unitLevel = false →
    s.ilenHeld = s'.ilenHeld → s.ilen = s'.ilen → s.maxInput = s'.maxInput →
    (∀ a, a < s.ilen → memRead s.argument a = memRead s'.argument a) →
    exec i s = .next t →
    ∃ t' : State, exec i s' = .next t' ∧ t'.err = t.err ∧ t'.ovalid = t.ovalid ∧
      (t.ovalid = true →
        t'.olen = t.olen ∧ t'.digest = t.digest ∧ t'.lanes = t.lanes ∧
        ∀ j, j < t.olen.toNat → t'.outByte j = t.outByte j)

/-- O41. Unit-level operations neither read nor write IN and ILEN (R30, R53).
Changing IN, ILEN, whether ILEN is written, OUT, OLEN, ERR and OVALID before a unit-level operation changes nothing of what it does: the same outcome, with those items as they were set. -/
def Obligations.UnitLevelIgnoresArgument : Prop :=
  ∀ (i : Instr) (s : State) (m : Memory) (n : Nat) (held valid : Bool) (e : ErrCode) (o : OutBuffer) (l : BitVec 6),
    i.unitLevel = true →
    (∀ t, exec i s = .next t →
      exec i { s with argument := m, ilen := n, ilenHeld := held, err := e, ovalid := valid, out := o, olen := l } =
        .next { t with argument := m, ilen := n, ilenHeld := held, err := e, ovalid := valid, out := o, olen := l }) ∧
    (∀ f, exec i s = .fault f →
      exec i { s with argument := m, ilen := n, ilenHeld := held, err := e, ovalid := valid, out := o, olen := l } = .fault f) ∧
    ∀ r, exec i s = .refused r →
      exec i { s with argument := m, ilen := n, ilenHeld := held, err := e, ovalid := valid, out := o, olen := l } = .refused r

/-- O42. The seven Permutation Engine operations change the lanes only; IOTA only lane 0 (R21, R53, R80).
Whenever THETA, RHO, PI, CHI, IOTA, ROUND or PERMUTE completes, POS, PHASE, ERR, OVALID, DG, OUT, OLEN, ILEN and every byte of IN are unchanged, and after IOTA so is every lane but lane 0. -/
def Obligations.EngineOperationsFrame : Prop :=
  (∀ (i : Instr) (s t : State), i.engine = true → exec i s = .next t →
      onlyLanesChange s t ∧ ∀ a, memRead t.argument a = memRead s.argument a) ∧
    ∀ (r : RoundIndex) (s t : State), exec (.iota r) s = .next t → ∀ i, 1 ≤ i → i < 25 → lane t.lanes i = lane s.lanes i

/-- O43. SP_INIT, SP_ABSORB, SP_PAD change A, POS and PHASE only; SP_SQUEEZE changes DG and PHASE only (R29, R53, R101, R102, R103, R104).
Whenever SP_INIT, SP_ABSORB or SP_PAD completes, everything but A, POS, PHASE and that A and POS hold a value is unchanged; whenever SP_SQUEEZE does, everything but DG, that DG holds a value, and PHASE; every byte of IN is unchanged after each. -/
def Obligations.SpongeOperationsFrame : Prop :=
  ∀ (i : Instr) (s t : State) (b : Byte), exec i s = .next t →
    (i = .spInit ∨ i = .spAbsorb b ∨ i = .spPad → onlySpongeChanges s t) ∧
    (i = .spSqueeze → t = { s with digest := t.digest, digestHeld := t.digestHeld, phase := t.phase }) ∧
    (i = .spInit ∨ i = .spAbsorb b ∨ i = .spPad ∨ i = .spSqueeze → ∀ a, memRead t.argument a = memRead s.argument a)

/-- O44. HASH, DERIVE_ADDRESS and CHECKSUM write the hash registers, STATUS, OLEN and the result bytes of OUT, and no byte of IN (R31, R53, R68).
Whenever one of the three completes, everything but A, POS, PHASE, ERR, OVALID, DG, OUT, OLEN is unchanged, every byte of IN too; OUT[32..39] after HASH and OUT[20..39] after DERIVE_ADDRESS, which R31 says hold no value, are as before because R53 lists no write of them (the model's reading, log 13). -/
def Obligations.HostLevelOperationsFrame : Prop :=
  ∀ (i : Instr) (s t : State), i.unitLevel = false → exec i s = .next t →
    onlyHostLevelChanges s t ∧ (∀ a, memRead t.argument a = memRead s.argument a) ∧
    (i = .hash → ∀ j, 32 ≤ j → j < 40 → t.outByte j = s.outByte j) ∧
    (i = .deriveAddress → ∀ j, 20 ≤ j → j < 40 → t.outByte j = s.outByte j)

/-- O45. A host write of IN[i] makes byte i read as written, leaves every other byte, and keeps the canonical form (R30, R40, R164).
Where the host's next action writes b to IN[i], step completes: byte i of IN reads b, every other byte reads as before, the canonical form of IN is kept, and nothing else changes but the host's list. -/
def Obligations.HostWritesOneArgumentByte : Prop :=
  ∀ (s : State) (i : Nat) (b : Byte) (rest : List HostAction), s.host = .writeIn i b :: rest →
    ∃ t : State, step s = .next t ∧ t = { s with argument := t.argument, host := rest } ∧
      memRead t.argument i = some b ∧ (∀ j, j ≠ i → memRead t.argument j = memRead s.argument j) ∧
      (s.argument.wf → t.argument.wf)

/-- O46. A host write of ILEN sets it and nothing else (R30, R164).
Where the host's next action writes n to ILEN, step completes with ILEN n, which holds a value from then on; nothing else changes but the host's list. -/
def Obligations.HostWritesLength : Prop :=
  ∀ (s : State) (n : Nat) (rest : List HostAction), s.host = .writeIlen n :: rest →
    step s = .next { s with ilen := n, ilenHeld := true, host := rest }

/-- O47. A host read of STATUS returns PHASE in bits 1:0, ERR in bits 3:2, OVALID in bit 4 and zeros above, and changes nothing (R25, R45, R164).
Where the host's next action reads STATUS, step completes; what the host gets is PHASE + 4*ERR + 16*OVALID with the codes of R25; nothing of the block changes. -/
def Obligations.StatusReadsPackedFields : Prop :=
  ∀ (s : State) (rest : List HostAction), s.host = .readStatus :: rest →
    ∃ t : State, step s = .next t ∧ t = { s with reply := t.reply, host := rest } ∧
      t.reply.toNat =
        (match s.phase with | .idle => 0 | .absorb => 1 | .final => 2) +
          4 * (match s.err with | .none => 0 | .invalidPublicKeyLength => 1 | .invalidAddressFormat => 2) +
          16 * (if s.ovalid then 1 else 0)

/-- O48. A host read of OUT[i] or OLEN returns the result where there is one and is a fault elsewhere (X5) (R31, R45, R159).
Reading OUT[i] with i below 40 returns byte i where OVALID is 1 and i is below OLEN, and is a fault otherwise; with i of 40 or more the read is a fault of its own, that of an address that does not exist (the model's choice of name, log 14: X5 stops OUT[OLEN..39] only); reading OLEN returns it where OVALID is 1 and is a fault otherwise. A read changes nothing of the block. -/
def Obligations.ResultReadsFollowOvalidAndOlen : Prop :=
  (∀ (s : State) (i : Nat) (rest : List HostAction), s.host = .readOut i :: rest →
      step s =
        if 40 ≤ i then .fault .outAddressAbsent
        else if s.ovalid = true ∧ i < s.olen.toNat then .next { s with reply := s.outByte i, host := rest }
        else .fault .resultHoldsNoValue) ∧
    ∀ (s : State) (rest : List HostAction), s.host = .readOlen :: rest →
      (s.ovalid = false → step s = .fault .resultHoldsNoValue) ∧
      (s.ovalid = true → ∃ t : State, step s = .next t ∧ t = { s with reply := t.reply, host := rest } ∧
        t.reply.toNat = s.olen.toNat)

/-- O49. A reset from any state leaves the reset state, on the same instance (R36, R180).
Where the host's next action is reset, step completes with State.reset but for the instance's bound, the host's list and the host's last reply; STATUS is then 0x00 and no byte of IN holds a value. (That a reset keeps the bound is the model's reading, log 4.) -/
def Obligations.ResetEventGivesResetState : Prop :=
  ∀ (s : State) (rest : List HostAction), s.host = .reset :: rest →
    ∃ t : State, step s = .next t ∧ t = { State.reset with maxInput := s.maxInput, host := rest, reply := s.reply } ∧
      t.statusWord = 0x00 ∧ t.lanesHeld = false ∧ t.digestHeld = false ∧ t.ilenHeld = false ∧
      ∀ a, memRead t.argument a = none

/-- O50. Directly after reset, before the host writes anything, SP_INIT is the one operation that completes (R36, R159, R180).
In the reset state, of the well-formed operations exactly SP_INIT completes: the engine's fault (A holds no value), the other sponge operations are refused (PHASE is IDLE), and the host-level ones fault (ILEN holds no value); STATUS reads 0x00. (State.reset is of an instance without a bound, DESIGN CHOICE, log 4.) -/
def Obligations.AfterResetOnlySpInitRuns : Prop :=
  State.reset.statusWord = 0x00 ∧
    ∀ i : Instr, i.wellFormed = true →
      ((∃ t, exec i State.reset = .next t) ↔ i = .spInit) ∧
      (i.engine = true → exec i State.reset = .fault .laneFileHoldsNoValue) ∧
      (i.unitLevel = false → exec i State.reset = .fault .argumentHoldsNoValue) ∧
      (i.unitLevel = true → i.engine = false → i ≠ .spInit → exec i State.reset = .refused .spongeOrder)

/-- O51. Where the host does nothing the block holds its state (R163, R23).
With no host action left, step answers the state itself (DESIGN CHOICE, log 3: the spec says that between operations the block simply holds its state). -/
def Obligations.IdleHostHoldsState : Prop :=
  ∀ s : State, s.host = [] → step s = .next s

/-- O52. The reset state meets the invariant (R36, R38).
State.reset satisfies State.Inv. -/
def Obligations.ResetMeetsInvariant : Prop :=
  State.reset.Inv

/-- O53. Every step from a state that meets the invariant leads to one that meets it (R24, R26, R38).
For every state s with State.Inv (POS at most 135 while it holds a value; PHASE not IDLE only where A holds a value; POS 0 in FINAL; with OVALID 1, OLEN is 20, 32 or 40, ERR is NONE and DG holds a value; IN canonical), if step answers a next state it meets State.Inv, whatever the host does. -/
def Obligations.StepKeepsInvariant : Prop :=
  ∀ s t : State, s.Inv → step s = .next t → t.Inv

/-- O54. CHECKSUM of a written argument ends in InvalidAddressFormat exactly when the text is not 40 characters of [0-9a-f] (R152).
Where ILEN is within the bound and the whole argument IN[0..ILEN-1] is written, CHECKSUM completes, whatever the text, and ERR is InvalidAddressFormat exactly if it is not 40 bytes each 0x30 to 0x39 or 0x61 to 0x66. -/
def Obligations.ChecksumRaisesAddressFormatErrorExactlyForInvalidText : Prop :=
  ∀ (s : State) (m : List Byte), s.ready → m.length = s.ilen → s.holdsBytes 0 m →
    ∃ t : State, exec .checksum s = .next t ∧
      (t.err = .invalidAddressFormat ↔
        ¬ (m.length = 40 ∧ ∀ c ∈ m, (0x30 ≤ c ∧ c ≤ 0x39) ∨ (0x61 ≤ c ∧ c ≤ 0x66)))
end

