-- ==== Sys2Proof/Laws/Operands.lean ====
section
/-! SUPPORT. What the operand forms do: lanes of a built lane file, one lane written, one state byte XORed. -/

namespace Sys2Proof.Machine

/-- A lane in range is the vector's entry. -/
theorem lane_eq_getElem (a : Lanes) {i : Nat} (h : i < 25) : lane a i = a[i] := by
  have : i < a.toList.length := by simpa using h
  simp [lane, List.getD_eq_getElem?_getD, h]

/-- Two lane files with the same 25 lanes are equal. -/
theorem lanes_ext {a b : Lanes} (h : ∀ i, i < 25 → lane a i = lane b i) : a = b := by
  ext i hi
  rw [← lane_eq_getElem a hi, ← lane_eq_getElem b hi, h i hi]

theorem laneAt_eq_lane (a : Lanes) {x y : Nat} (hx : x < 5) (hy : y < 5) : laneAt a x y = lane a (x + 5 * y) := by
  simp [laneAt, Nat.mod_eq_of_lt hx, Nat.mod_eq_of_lt hy]

/-- Lane `(x,y)` of a built lane file is the value built for it (R22). -/
theorem lane_lanesOf (f : Nat → Nat → Lane) {x y : Nat} (hx : x < 5) (hy : y < 5) :
    lane (lanesOf f) (x + 5 * y) = f x y := by
  interval_cases x <;> interval_cases y <;> rfl

/-- The same by linear index. -/
theorem lane_lanesOf_index (f : Nat → Nat → Lane) {i : Nat} (hi : i < 25) :
    lane (lanesOf f) i = f (i % 5) (i / 5) := by
  rw [← lane_lanesOf f (Nat.mod_lt i (by omega)) (Nat.div_lt_of_lt_mul (by omega)), Nat.mod_add_div]

theorem lane_setLane (a : Lanes) (i j : Nat) (v : Lane) (hj : j < 25) :
    lane (setLane a i v) j = if i = j then v else lane a j := by
  rw [lane_eq_getElem _ hj, lane_eq_getElem _ hj, setLane, Vector.getElem_setIfInBounds]

/-- XORing one state byte changes that byte and no other (R41, R42). -/
theorem stateByte_xorStateByte (a : Lanes) (b : Byte) {i j : Nat} (hj : j < 200) :
    stateByte (xorStateByte a i b) j = if i = j then stateByte a j ^^^ b else stateByte a j := by
  have hdiv : j / 8 < 25 := by omega
  simp only [stateByte, xorStateByte]
  rw [lane_setLane _ _ _ _ hdiv]
  by_cases hsame : i / 8 = j / 8
  · rw [if_pos hsame, hsame]
    ext k hk
    by_cases hij : i = j
    · subst hij
      have : ¬ 8 * (i % 8) + k < 8 * (i % 8) := by omega
      have : 8 * (i % 8) + k < 64 := by omega
      simp [BitVec.getElem_setWidth, *]
    · rw [if_neg hij]
      have hm : i % 8 ≠ j % 8 := by omega
      have h64 : 8 * (j % 8) + k < 64 := by omega
      simp only [BitVec.getElem_setWidth, BitVec.getLsbD_ushiftRight, BitVec.getLsbD_xor, BitVec.getLsbD_shiftLeft,
        BitVec.getLsbD_setWidth, h64, decide_true, Bool.true_and]
      by_cases hlt : 8 * (j % 8) + k < 8 * (i % 8)
      · simp [hlt]
      · have hge : 8 ≤ 8 * (j % 8) + k - 8 * (i % 8) := by omega
        simp [BitVec.getLsbD_of_ge b _ hge]
  · rw [if_neg hsame, if_neg (by rintro rfl; exact hsame rfl)]

/-- A lane is the eight bytes the byte view gives it (R41). -/
theorem lane_ext_bytes {v w : Lane} (h : ∀ k, k < 8 → ((v >>> (8 * k)).setWidth 8 : Byte) = (w >>> (8 * k)).setWidth 8) :
    v = w := by
  ext i hi
  have h8 := congrArg (fun u : Byte => u.getLsbD (i % 8)) (h (i / 8) (by omega))
  have hlt : i % 8 < 8 := Nat.mod_lt i (by omega)
  have hsum : 8 * (i / 8) + i % 8 = i := Nat.div_add_mod i 8
  simp only [BitVec.getLsbD_setWidth, BitVec.getLsbD_ushiftRight, hlt, decide_true, Bool.true_and, hsum] at h8
  simpa [BitVec.getLsbD_eq_getElem hi] using h8

/-- Two lane files with the same 200 state bytes are equal (R41). -/
theorem lanes_ext_bytes {a b : Lanes} (h : ∀ i, i < 200 → stateByte a i = stateByte b i) : a = b := by
  refine lanes_ext fun i hi => lane_ext_bytes fun k hk => ?_
  have := h (8 * i + k) (by omega)
  simpa [stateByte, show (8 * i + k) / 8 = i by omega, show (8 * i + k) % 8 = k by omega] using this

theorem digestOf_getElem (a : Lanes) {i : Nat} (h : i < 32) : (digestOf a)[i] = stateByte a i := by
  simp [digestOf]

/-- Writing a result changes the first bytes of `OUT` and no other (R31). -/
theorem overwrite_getD (out : OutBuffer) (r : List Byte) {i : Nat} (h : i < 40) :
    (overwrite out r).toList.getD i 0 = r.getD i (out.toList.getD i 0) := by
  have hv : ∀ v : OutBuffer, v.toList.getD i 0 = v[i] := fun v => by
    simp [List.getD_eq_getElem?_getD, h]
  rw [hv, overwrite, Vector.getElem_ofFn]

end Sys2Proof.Machine
end

