-- ==== Sys2Proof/Laws/Memory.lean ====
section
/-! SUPPORT. The laws of `IN`: a read after a write, the canonical form, and what reading several bytes answers. -/

namespace Sys2Proof.Machine

@[simp] theorem memRead_nil (i : Nat) : memRead [] i = none := rfl

theorem memRead_cons (k : Nat) (v : Byte) (m : Memory) (i : Nat) :
    memRead ((k, v) :: m) i = if k = i then some v else memRead m i := rfl

theorem memRead_memWrite_same (m : Memory) (i : Nat) (b : Byte) : memRead (memWrite m i b) i = some b := by
  induction m with
  | nil => simp [memWrite, memRead_cons]
  | cons c m ih =>
    obtain ⟨k, v⟩ := c
    simp only [memWrite]
    split
    · simp [memRead_cons]
    · split
      · simp [memRead_cons]
      · rw [memRead_cons, if_neg (by omega), ih]

theorem memRead_memWrite_other (m : Memory) {i j : Nat} (b : Byte) (h : i ≠ j) :
    memRead (memWrite m i b) j = memRead m j := by
  induction m with
  | nil => simp [memWrite, memRead_cons, h]
  | cons c m ih =>
    obtain ⟨k, v⟩ := c
    simp only [memWrite]
    split
    · rw [memRead_cons, if_neg h]
    · split
      · subst_vars
        simp [memRead_cons, h]
      · rw [memRead_cons, memRead_cons, ih]

/-- An address of a written memory is the one written or one that was there. -/
theorem mem_memWrite_addr (m : Memory) (i : Nat) (b : Byte) (k : Nat) (h : k ∈ (memWrite m i b).map Prod.fst) :
    k = i ∨ k ∈ m.map Prod.fst := by
  induction m with
  | nil => simpa [memWrite] using h
  | cons c m ih =>
    obtain ⟨a, v⟩ := c
    simp only [memWrite] at h
    split at h
    · simpa using h
    · split at h <;> simp at h ⊢
      · rcases h with h | h <;> simp [h]
      · rcases h with h | ⟨w, h⟩
        · simp [h]
        · rcases ih (by simpa using ⟨w, h⟩) with h | h
          · simp [h]
          · simp at h
            simp [h]

theorem memWrite_wf {m : Memory} (h : m.wf) (i : Nat) (b : Byte) : (memWrite m i b).wf := by
  induction m with
  | nil => simp [Memory.wf, memWrite]
  | cons c m ih =>
    obtain ⟨k, v⟩ := c
    simp only [Memory.wf, List.map_cons, List.pairwise_cons] at h
    simp only [memWrite]
    split
    · simp only [Memory.wf, List.map_cons, List.pairwise_cons, List.mem_cons, forall_eq_or_imp]
      exact ⟨⟨by assumption, fun a ha => lt_trans (by assumption) (h.1 a ha)⟩, h⟩
    · split
      · subst_vars
        simpa [Memory.wf] using h
      · simp only [Memory.wf, List.map_cons, List.pairwise_cons]
        refine ⟨fun a ha => ?_, ih h.2⟩
        rcases mem_memWrite_addr m i b a ha with rfl | ha
        · omega
        · exact h.1 a ha

theorem reset_argument_wf : State.reset.argument.wf := by decide

/-- Reading `n` bytes answers exactly the bytes held there. -/
theorem readBytes_eq_some {m : Memory} {start n : Nat} {bs : List Byte} :
    readBytes m start n = some bs ↔ bs.length = n ∧ ∀ i, i < n → memRead m (start + i) = bs[i]? := by
  induction n generalizing start bs with
  | zero => cases bs <;> simp [readBytes]
  | succ n ih =>
    simp only [readBytes]
    constructor
    · intro h
      split at h
      · rename_i b rest hb hr
        obtain rfl : b :: rest = bs := by simpa using h
        obtain ⟨hl, hi⟩ := ih.1 hr
        refine ⟨by simp [hl], fun i hlt => ?_⟩
        cases i with
        | zero => simpa using hb
        | succ i =>
          have := hi i (by omega)
          rw [show start + (i + 1) = start + 1 + i by omega]
          simpa using this
      · simp at h
    · rintro ⟨hl, hi⟩
      cases bs with
      | nil => simp at hl
      | cons b rest =>
        have h0 := hi 0 (by omega)
        have hr : readBytes m (start + 1) n = some rest := by
          refine ih.2 ⟨by simpa using hl, fun i hlt => ?_⟩
          have := hi (i + 1) (by omega)
          rw [show start + 1 + i = start + (i + 1) by omega]
          simpa using this
        simp only [Nat.add_zero, List.getElem?_cons_zero] at h0
        simp [h0, hr]

theorem readBytes_of_holdsBytes {s : State} {start : Nat} {bs : List Byte} (h : s.holdsBytes start bs) :
    readBytes s.argument start bs.length = some bs := readBytes_eq_some.2 ⟨rfl, h⟩

/-- Reading bytes looks at those bytes only. -/
theorem readBytes_congr {m m' : Memory} {start n : Nat}
    (h : ∀ i, i < n → memRead m (start + i) = memRead m' (start + i)) : readBytes m start n = readBytes m' start n := by
  induction n generalizing start with
  | zero => rfl
  | succ n ih =>
    have h0 := h 0 (by omega)
    simp only [Nat.add_zero] at h0
    have hr := ih (start := start + 1) fun i hi => by
      have := h (i + 1) (by omega)
      rwa [show start + 1 + i = start + (i + 1) by omega]
    simp only [readBytes, h0, hr]

theorem scanText_congr {m m' : Memory} {start n : Nat}
    (h : ∀ i, i < n → memRead m (start + i) = memRead m' (start + i)) : scanText m start n = scanText m' start n := by
  induction n generalizing start with
  | zero => rfl
  | succ n ih =>
    have h0 := h 0 (by omega)
    simp only [Nat.add_zero] at h0
    have hr := ih (start := start + 1) fun i hi => by
      have := h (i + 1) (by omega)
      rwa [show start + 1 + i = start + (i + 1) by omega]
    simp only [scanText, h0, hr]

/-- The scan accepts exactly the texts whose bytes are all held and all address characters (R141). -/
theorem scanText_eq_true {m : Memory} {start n : Nat} :
    scanText m start n = some true ↔ ∀ i, i < n → ∃ c, memRead m (start + i) = some c ∧ isAddressChar c = true := by
  induction n generalizing start with
  | zero => simp [scanText]
  | succ n ih =>
    simp only [scanText]
    constructor
    · intro h i hi
      split at h
      · simp at h
      · rename_i c hc
        split at h
        · rename_i hok
          cases i with
          | zero => exact ⟨c, by simpa using hc, hok⟩
          | succ i =>
            rw [show start + (i + 1) = start + 1 + i by omega]
            exact ih.1 h i (by omega)
        · simp at h
    · intro h
      obtain ⟨c, hc, hok⟩ := h 0 (by omega)
      simp only [Nat.add_zero] at hc
      simp only [hc, hok, if_true]
      refine ih.2 fun i hi => ?_
      rw [show start + 1 + i = start + (i + 1) by omega]
      exact h (i + 1) (by omega)

/-- The scan rejects at the first held byte that is no address character, when every byte before it is held. -/
theorem scanText_eq_false {m : Memory} {start n : Nat} :
    scanText m start n = some false ↔
      ∃ k, k < n ∧ (∃ c, memRead m (start + k) = some c ∧ isAddressChar c = false) ∧
        ∀ i, i < k → ∃ c, memRead m (start + i) = some c ∧ isAddressChar c = true := by
  induction n generalizing start with
  | zero => simp [scanText]
  | succ n ih =>
    simp only [scanText]
    constructor
    · intro h
      split at h
      · simp at h
      · rename_i c hc
        split at h
        · rename_i hok
          obtain ⟨k, hk, hbad, hgood⟩ := ih.1 h
          refine ⟨k + 1, by omega, ?_, ?_⟩
          · rwa [show start + (k + 1) = start + 1 + k by omega]
          · intro i hi
            cases i with
            | zero => exact ⟨c, by simpa using hc, hok⟩
            | succ i =>
              rw [show start + (i + 1) = start + 1 + i by omega]
              exact hgood i (by omega)
        · rename_i hbad
          exact ⟨0, by omega, ⟨c, by simpa using hc, by simpa using hbad⟩, fun i hi => by omega⟩
    · rintro ⟨k, hk, ⟨c, hc, hbad⟩, hgood⟩
      cases k with
      | zero =>
        simp only [Nat.add_zero] at hc
        simp [hc, hbad]
      | succ k =>
        obtain ⟨d, hd, hdok⟩ := hgood 0 (by omega)
        simp only [Nat.add_zero] at hd
        simp only [hd, hdok, if_true]
        refine ih.2 ⟨k, by omega, ⟨c, ?_, hbad⟩, fun i hi => ?_⟩
        · rwa [show start + 1 + k = start + (k + 1) by omega]
        · rw [show start + 1 + i = start + (i + 1) by omega]
          exact hgood (i + 1) (by omega)

end Sys2Proof.Machine
end

