-- ==== Sys2Proof/Laws/State.lean ====
section
/-! SUPPORT. One lemma per field per update of State, each true by rfl, so that no later proof unfolds a record update. -/

namespace Sys2Proof.Machine

section ClearStatus

variable (s : State)

@[simp] theorem State.clearStatus_lanes : (s.clearStatus).lanes = s.lanes := rfl
@[simp] theorem State.clearStatus_pos : (s.clearStatus).pos = s.pos := rfl
@[simp] theorem State.clearStatus_lanesHeld : (s.clearStatus).lanesHeld = s.lanesHeld := rfl
@[simp] theorem State.clearStatus_phase : (s.clearStatus).phase = s.phase := rfl
@[simp] theorem State.clearStatus_err : (s.clearStatus).err = .none := rfl
@[simp] theorem State.clearStatus_ovalid : (s.clearStatus).ovalid = false := rfl
@[simp] theorem State.clearStatus_digest : (s.clearStatus).digest = s.digest := rfl
@[simp] theorem State.clearStatus_digestHeld : (s.clearStatus).digestHeld = s.digestHeld := rfl
@[simp] theorem State.clearStatus_argument : (s.clearStatus).argument = s.argument := rfl
@[simp] theorem State.clearStatus_ilen : (s.clearStatus).ilen = s.ilen := rfl
@[simp] theorem State.clearStatus_ilenHeld : (s.clearStatus).ilenHeld = s.ilenHeld := rfl
@[simp] theorem State.clearStatus_out : (s.clearStatus).out = s.out := rfl
@[simp] theorem State.clearStatus_olen : (s.clearStatus).olen = s.olen := rfl
@[simp] theorem State.clearStatus_maxInput : (s.clearStatus).maxInput = s.maxInput := rfl
@[simp] theorem State.clearStatus_host : (s.clearStatus).host = s.host := rfl
@[simp] theorem State.clearStatus_reply : (s.clearStatus).reply = s.reply := rfl

end ClearStatus

section RaiseError

variable (s : State) (e : ErrCode)

@[simp] theorem State.raiseError_lanes : (s.raiseError e).lanes = s.lanes := rfl
@[simp] theorem State.raiseError_pos : (s.raiseError e).pos = s.pos := rfl
@[simp] theorem State.raiseError_lanesHeld : (s.raiseError e).lanesHeld = s.lanesHeld := rfl
@[simp] theorem State.raiseError_phase : (s.raiseError e).phase = s.phase := rfl
@[simp] theorem State.raiseError_err : (s.raiseError e).err = e := rfl
@[simp] theorem State.raiseError_ovalid : (s.raiseError e).ovalid = false := rfl
@[simp] theorem State.raiseError_digest : (s.raiseError e).digest = s.digest := rfl
@[simp] theorem State.raiseError_digestHeld : (s.raiseError e).digestHeld = s.digestHeld := rfl
@[simp] theorem State.raiseError_argument : (s.raiseError e).argument = s.argument := rfl
@[simp] theorem State.raiseError_ilen : (s.raiseError e).ilen = s.ilen := rfl
@[simp] theorem State.raiseError_ilenHeld : (s.raiseError e).ilenHeld = s.ilenHeld := rfl
@[simp] theorem State.raiseError_out : (s.raiseError e).out = s.out := rfl
@[simp] theorem State.raiseError_olen : (s.raiseError e).olen = s.olen := rfl
@[simp] theorem State.raiseError_maxInput : (s.raiseError e).maxInput = s.maxInput := rfl
@[simp] theorem State.raiseError_host : (s.raiseError e).host = s.host := rfl
@[simp] theorem State.raiseError_reply : (s.raiseError e).reply = s.reply := rfl

end RaiseError

section PutLanes

variable (s : State) (a : Lanes)

@[simp] theorem State.putLanes_lanes : (s.putLanes a).lanes = a := rfl
@[simp] theorem State.putLanes_pos : (s.putLanes a).pos = s.pos := rfl
@[simp] theorem State.putLanes_lanesHeld : (s.putLanes a).lanesHeld = s.lanesHeld := rfl
@[simp] theorem State.putLanes_phase : (s.putLanes a).phase = s.phase := rfl
@[simp] theorem State.putLanes_err : (s.putLanes a).err = s.err := rfl
@[simp] theorem State.putLanes_ovalid : (s.putLanes a).ovalid = s.ovalid := rfl
@[simp] theorem State.putLanes_digest : (s.putLanes a).digest = s.digest := rfl
@[simp] theorem State.putLanes_digestHeld : (s.putLanes a).digestHeld = s.digestHeld := rfl
@[simp] theorem State.putLanes_argument : (s.putLanes a).argument = s.argument := rfl
@[simp] theorem State.putLanes_ilen : (s.putLanes a).ilen = s.ilen := rfl
@[simp] theorem State.putLanes_ilenHeld : (s.putLanes a).ilenHeld = s.ilenHeld := rfl
@[simp] theorem State.putLanes_out : (s.putLanes a).out = s.out := rfl
@[simp] theorem State.putLanes_olen : (s.putLanes a).olen = s.olen := rfl
@[simp] theorem State.putLanes_maxInput : (s.putLanes a).maxInput = s.maxInput := rfl
@[simp] theorem State.putLanes_host : (s.putLanes a).host = s.host := rfl
@[simp] theorem State.putLanes_reply : (s.putLanes a).reply = s.reply := rfl

end PutLanes

section PutSponge

variable (s : State) (a : Lanes) (p : BitVec 8)

@[simp] theorem State.putSponge_lanes : (s.putSponge a p).lanes = a := rfl
@[simp] theorem State.putSponge_pos : (s.putSponge a p).pos = p := rfl
@[simp] theorem State.putSponge_lanesHeld : (s.putSponge a p).lanesHeld = s.lanesHeld := rfl
@[simp] theorem State.putSponge_phase : (s.putSponge a p).phase = s.phase := rfl
@[simp] theorem State.putSponge_err : (s.putSponge a p).err = s.err := rfl
@[simp] theorem State.putSponge_ovalid : (s.putSponge a p).ovalid = s.ovalid := rfl
@[simp] theorem State.putSponge_digest : (s.putSponge a p).digest = s.digest := rfl
@[simp] theorem State.putSponge_digestHeld : (s.putSponge a p).digestHeld = s.digestHeld := rfl
@[simp] theorem State.putSponge_argument : (s.putSponge a p).argument = s.argument := rfl
@[simp] theorem State.putSponge_ilen : (s.putSponge a p).ilen = s.ilen := rfl
@[simp] theorem State.putSponge_ilenHeld : (s.putSponge a p).ilenHeld = s.ilenHeld := rfl
@[simp] theorem State.putSponge_out : (s.putSponge a p).out = s.out := rfl
@[simp] theorem State.putSponge_olen : (s.putSponge a p).olen = s.olen := rfl
@[simp] theorem State.putSponge_maxInput : (s.putSponge a p).maxInput = s.maxInput := rfl
@[simp] theorem State.putSponge_host : (s.putSponge a p).host = s.host := rfl
@[simp] theorem State.putSponge_reply : (s.putSponge a p).reply = s.reply := rfl

end PutSponge

section PutPhase

variable (s : State) (p : Phase)

@[simp] theorem State.putPhase_lanes : (s.putPhase p).lanes = s.lanes := rfl
@[simp] theorem State.putPhase_pos : (s.putPhase p).pos = s.pos := rfl
@[simp] theorem State.putPhase_lanesHeld : (s.putPhase p).lanesHeld = s.lanesHeld := rfl
@[simp] theorem State.putPhase_phase : (s.putPhase p).phase = p := rfl
@[simp] theorem State.putPhase_err : (s.putPhase p).err = s.err := rfl
@[simp] theorem State.putPhase_ovalid : (s.putPhase p).ovalid = s.ovalid := rfl
@[simp] theorem State.putPhase_digest : (s.putPhase p).digest = s.digest := rfl
@[simp] theorem State.putPhase_digestHeld : (s.putPhase p).digestHeld = s.digestHeld := rfl
@[simp] theorem State.putPhase_argument : (s.putPhase p).argument = s.argument := rfl
@[simp] theorem State.putPhase_ilen : (s.putPhase p).ilen = s.ilen := rfl
@[simp] theorem State.putPhase_ilenHeld : (s.putPhase p).ilenHeld = s.ilenHeld := rfl
@[simp] theorem State.putPhase_out : (s.putPhase p).out = s.out := rfl
@[simp] theorem State.putPhase_olen : (s.putPhase p).olen = s.olen := rfl
@[simp] theorem State.putPhase_maxInput : (s.putPhase p).maxInput = s.maxInput := rfl
@[simp] theorem State.putPhase_host : (s.putPhase p).host = s.host := rfl
@[simp] theorem State.putPhase_reply : (s.putPhase p).reply = s.reply := rfl

end PutPhase

section HoldLanes

variable (s : State)

@[simp] theorem State.holdLanes_lanes : (s.holdLanes).lanes = s.lanes := rfl
@[simp] theorem State.holdLanes_pos : (s.holdLanes).pos = s.pos := rfl
@[simp] theorem State.holdLanes_lanesHeld : (s.holdLanes).lanesHeld = true := rfl
@[simp] theorem State.holdLanes_phase : (s.holdLanes).phase = s.phase := rfl
@[simp] theorem State.holdLanes_err : (s.holdLanes).err = s.err := rfl
@[simp] theorem State.holdLanes_ovalid : (s.holdLanes).ovalid = s.ovalid := rfl
@[simp] theorem State.holdLanes_digest : (s.holdLanes).digest = s.digest := rfl
@[simp] theorem State.holdLanes_digestHeld : (s.holdLanes).digestHeld = s.digestHeld := rfl
@[simp] theorem State.holdLanes_argument : (s.holdLanes).argument = s.argument := rfl
@[simp] theorem State.holdLanes_ilen : (s.holdLanes).ilen = s.ilen := rfl
@[simp] theorem State.holdLanes_ilenHeld : (s.holdLanes).ilenHeld = s.ilenHeld := rfl
@[simp] theorem State.holdLanes_out : (s.holdLanes).out = s.out := rfl
@[simp] theorem State.holdLanes_olen : (s.holdLanes).olen = s.olen := rfl
@[simp] theorem State.holdLanes_maxInput : (s.holdLanes).maxInput = s.maxInput := rfl
@[simp] theorem State.holdLanes_host : (s.holdLanes).host = s.host := rfl
@[simp] theorem State.holdLanes_reply : (s.holdLanes).reply = s.reply := rfl

end HoldLanes

section PutDigest

variable (s : State) (d : Digest)

@[simp] theorem State.putDigest_lanes : (s.putDigest d).lanes = s.lanes := rfl
@[simp] theorem State.putDigest_pos : (s.putDigest d).pos = s.pos := rfl
@[simp] theorem State.putDigest_lanesHeld : (s.putDigest d).lanesHeld = s.lanesHeld := rfl
@[simp] theorem State.putDigest_phase : (s.putDigest d).phase = s.phase := rfl
@[simp] theorem State.putDigest_err : (s.putDigest d).err = s.err := rfl
@[simp] theorem State.putDigest_ovalid : (s.putDigest d).ovalid = s.ovalid := rfl
@[simp] theorem State.putDigest_digest : (s.putDigest d).digest = d := rfl
@[simp] theorem State.putDigest_digestHeld : (s.putDigest d).digestHeld = true := rfl
@[simp] theorem State.putDigest_argument : (s.putDigest d).argument = s.argument := rfl
@[simp] theorem State.putDigest_ilen : (s.putDigest d).ilen = s.ilen := rfl
@[simp] theorem State.putDigest_ilenHeld : (s.putDigest d).ilenHeld = s.ilenHeld := rfl
@[simp] theorem State.putDigest_out : (s.putDigest d).out = s.out := rfl
@[simp] theorem State.putDigest_olen : (s.putDigest d).olen = s.olen := rfl
@[simp] theorem State.putDigest_maxInput : (s.putDigest d).maxInput = s.maxInput := rfl
@[simp] theorem State.putDigest_host : (s.putDigest d).host = s.host := rfl
@[simp] theorem State.putDigest_reply : (s.putDigest d).reply = s.reply := rfl

end PutDigest

section Deliver

variable (s : State) (r : List Byte)

@[simp] theorem State.deliver_lanes : (s.deliver r).lanes = s.lanes := rfl
@[simp] theorem State.deliver_pos : (s.deliver r).pos = s.pos := rfl
@[simp] theorem State.deliver_lanesHeld : (s.deliver r).lanesHeld = s.lanesHeld := rfl
@[simp] theorem State.deliver_phase : (s.deliver r).phase = s.phase := rfl
@[simp] theorem State.deliver_err : (s.deliver r).err = s.err := rfl
@[simp] theorem State.deliver_ovalid : (s.deliver r).ovalid = true := rfl
@[simp] theorem State.deliver_digest : (s.deliver r).digest = s.digest := rfl
@[simp] theorem State.deliver_digestHeld : (s.deliver r).digestHeld = s.digestHeld := rfl
@[simp] theorem State.deliver_argument : (s.deliver r).argument = s.argument := rfl
@[simp] theorem State.deliver_ilen : (s.deliver r).ilen = s.ilen := rfl
@[simp] theorem State.deliver_ilenHeld : (s.deliver r).ilenHeld = s.ilenHeld := rfl
@[simp] theorem State.deliver_out : (s.deliver r).out = overwrite s.out r := rfl
@[simp] theorem State.deliver_olen : (s.deliver r).olen = BitVec.ofNat 6 r.length := rfl
@[simp] theorem State.deliver_maxInput : (s.deliver r).maxInput = s.maxInput := rfl
@[simp] theorem State.deliver_host : (s.deliver r).host = s.host := rfl
@[simp] theorem State.deliver_reply : (s.deliver r).reply = s.reply := rfl

end Deliver

section PutArgumentByte

variable (s : State) (i : Nat) (b : Byte)

@[simp] theorem State.putArgumentByte_lanes : (s.putArgumentByte i b).lanes = s.lanes := rfl
@[simp] theorem State.putArgumentByte_pos : (s.putArgumentByte i b).pos = s.pos := rfl
@[simp] theorem State.putArgumentByte_lanesHeld : (s.putArgumentByte i b).lanesHeld = s.lanesHeld := rfl
@[simp] theorem State.putArgumentByte_phase : (s.putArgumentByte i b).phase = s.phase := rfl
@[simp] theorem State.putArgumentByte_err : (s.putArgumentByte i b).err = s.err := rfl
@[simp] theorem State.putArgumentByte_ovalid : (s.putArgumentByte i b).ovalid = s.ovalid := rfl
@[simp] theorem State.putArgumentByte_digest : (s.putArgumentByte i b).digest = s.digest := rfl
@[simp] theorem State.putArgumentByte_digestHeld : (s.putArgumentByte i b).digestHeld = s.digestHeld := rfl
@[simp] theorem State.putArgumentByte_argument : (s.putArgumentByte i b).argument = memWrite s.argument i b := rfl
@[simp] theorem State.putArgumentByte_ilen : (s.putArgumentByte i b).ilen = s.ilen := rfl
@[simp] theorem State.putArgumentByte_ilenHeld : (s.putArgumentByte i b).ilenHeld = s.ilenHeld := rfl
@[simp] theorem State.putArgumentByte_out : (s.putArgumentByte i b).out = s.out := rfl
@[simp] theorem State.putArgumentByte_olen : (s.putArgumentByte i b).olen = s.olen := rfl
@[simp] theorem State.putArgumentByte_maxInput : (s.putArgumentByte i b).maxInput = s.maxInput := rfl
@[simp] theorem State.putArgumentByte_host : (s.putArgumentByte i b).host = s.host := rfl
@[simp] theorem State.putArgumentByte_reply : (s.putArgumentByte i b).reply = s.reply := rfl

end PutArgumentByte

section PutIlen

variable (s : State) (n : Nat)

@[simp] theorem State.putIlen_lanes : (s.putIlen n).lanes = s.lanes := rfl
@[simp] theorem State.putIlen_pos : (s.putIlen n).pos = s.pos := rfl
@[simp] theorem State.putIlen_lanesHeld : (s.putIlen n).lanesHeld = s.lanesHeld := rfl
@[simp] theorem State.putIlen_phase : (s.putIlen n).phase = s.phase := rfl
@[simp] theorem State.putIlen_err : (s.putIlen n).err = s.err := rfl
@[simp] theorem State.putIlen_ovalid : (s.putIlen n).ovalid = s.ovalid := rfl
@[simp] theorem State.putIlen_digest : (s.putIlen n).digest = s.digest := rfl
@[simp] theorem State.putIlen_digestHeld : (s.putIlen n).digestHeld = s.digestHeld := rfl
@[simp] theorem State.putIlen_argument : (s.putIlen n).argument = s.argument := rfl
@[simp] theorem State.putIlen_ilen : (s.putIlen n).ilen = n := rfl
@[simp] theorem State.putIlen_ilenHeld : (s.putIlen n).ilenHeld = true := rfl
@[simp] theorem State.putIlen_out : (s.putIlen n).out = s.out := rfl
@[simp] theorem State.putIlen_olen : (s.putIlen n).olen = s.olen := rfl
@[simp] theorem State.putIlen_maxInput : (s.putIlen n).maxInput = s.maxInput := rfl
@[simp] theorem State.putIlen_host : (s.putIlen n).host = s.host := rfl
@[simp] theorem State.putIlen_reply : (s.putIlen n).reply = s.reply := rfl

end PutIlen

section PutReply

variable (s : State) (b : Byte)

@[simp] theorem State.putReply_lanes : (s.putReply b).lanes = s.lanes := rfl
@[simp] theorem State.putReply_pos : (s.putReply b).pos = s.pos := rfl
@[simp] theorem State.putReply_lanesHeld : (s.putReply b).lanesHeld = s.lanesHeld := rfl
@[simp] theorem State.putReply_phase : (s.putReply b).phase = s.phase := rfl
@[simp] theorem State.putReply_err : (s.putReply b).err = s.err := rfl
@[simp] theorem State.putReply_ovalid : (s.putReply b).ovalid = s.ovalid := rfl
@[simp] theorem State.putReply_digest : (s.putReply b).digest = s.digest := rfl
@[simp] theorem State.putReply_digestHeld : (s.putReply b).digestHeld = s.digestHeld := rfl
@[simp] theorem State.putReply_argument : (s.putReply b).argument = s.argument := rfl
@[simp] theorem State.putReply_ilen : (s.putReply b).ilen = s.ilen := rfl
@[simp] theorem State.putReply_ilenHeld : (s.putReply b).ilenHeld = s.ilenHeld := rfl
@[simp] theorem State.putReply_out : (s.putReply b).out = s.out := rfl
@[simp] theorem State.putReply_olen : (s.putReply b).olen = s.olen := rfl
@[simp] theorem State.putReply_maxInput : (s.putReply b).maxInput = s.maxInput := rfl
@[simp] theorem State.putReply_host : (s.putReply b).host = s.host := rfl
@[simp] theorem State.putReply_reply : (s.putReply b).reply = b := rfl

end PutReply

section PutHost

variable (s : State) (acts : List HostAction)

@[simp] theorem State.putHost_lanes : (s.putHost acts).lanes = s.lanes := rfl
@[simp] theorem State.putHost_pos : (s.putHost acts).pos = s.pos := rfl
@[simp] theorem State.putHost_lanesHeld : (s.putHost acts).lanesHeld = s.lanesHeld := rfl
@[simp] theorem State.putHost_phase : (s.putHost acts).phase = s.phase := rfl
@[simp] theorem State.putHost_err : (s.putHost acts).err = s.err := rfl
@[simp] theorem State.putHost_ovalid : (s.putHost acts).ovalid = s.ovalid := rfl
@[simp] theorem State.putHost_digest : (s.putHost acts).digest = s.digest := rfl
@[simp] theorem State.putHost_digestHeld : (s.putHost acts).digestHeld = s.digestHeld := rfl
@[simp] theorem State.putHost_argument : (s.putHost acts).argument = s.argument := rfl
@[simp] theorem State.putHost_ilen : (s.putHost acts).ilen = s.ilen := rfl
@[simp] theorem State.putHost_ilenHeld : (s.putHost acts).ilenHeld = s.ilenHeld := rfl
@[simp] theorem State.putHost_out : (s.putHost acts).out = s.out := rfl
@[simp] theorem State.putHost_olen : (s.putHost acts).olen = s.olen := rfl
@[simp] theorem State.putHost_maxInput : (s.putHost acts).maxInput = s.maxInput := rfl
@[simp] theorem State.putHost_host : (s.putHost acts).host = acts := rfl
@[simp] theorem State.putHost_reply : (s.putHost acts).reply = s.reply := rfl

end PutHost

end Sys2Proof.Machine
end

