-- ==== Sys2Proof/Laws/Ops.lean ====
section
/-! SUPPORT. What each shared operation can answer, said once: an equation where it completes and an inversion where it answered a next state. -/

namespace Sys2Proof.Machine

variable {s t : State} {f : Lanes → Lanes} {g : State → State} {p : Phase} {body : State → Result}

theorem onLanes_held (h : s.lanesHeld = true) : onLanes f s = .next (s.putLanes (f s.lanes)) := by
  simp [onLanes, h]

theorem onLanes_next (h : onLanes f s = .next t) : s.lanesHeld = true ∧ t = s.putLanes (f s.lanes) := by
  simp only [onLanes] at h
  split at h
  · exact ⟨‹_›, by simpa using h.symm⟩
  · cases h

theorem inPhase_legal (hp : s.phase = p) (h : s.lanesHeld = true) : inPhase p g s = .next (g s) := by
  simp [inPhase, hp, h]

theorem inPhase_refused (hp : s.phase ≠ p) : inPhase p g s = .refused .spongeOrder := by
  simp [inPhase, hp]

theorem inPhase_next (h : inPhase p g s = .next t) : s.phase = p ∧ s.lanesHeld = true ∧ t = g s := by
  simp only [inPhase] at h
  split at h
  · split at h
    · exact ⟨‹_›, ‹_›, by simpa using h.symm⟩
    · cases h
  · cases h

theorem withinBound_eq_true : s.withinBound = true ↔ ∀ bound, s.maxInput = some bound → s.ilen ≤ bound := by
  unfold State.withinBound
  cases s.maxInput <;> simp

theorem ready_iff : s.ready ↔ s.ilenHeld = true ∧ s.withinBound = true := by
  simp [State.ready, withinBound_eq_true]

theorem hostLevel_ready (h : s.ready) : hostLevel body s = body s.clearStatus := by
  simp [hostLevel, ready_iff.1 h]

theorem hostLevel_next (h : hostLevel body s = .next t) : s.ready ∧ body s.clearStatus = .next t := by
  simp only [hostLevel] at h
  split at h
  · split at h
    · exact ⟨ready_iff.2 ⟨‹_›, ‹_›⟩, h⟩
    · cases h
  · cases h

theorem withArgument_next {start n : Nat} {k : List Byte → State → Result} (h : withArgument start n k s = .next t) :
    ∃ m, readBytes s.argument start n = some m ∧ k m s = .next t := by
  simp only [withArgument] at h
  split at h
  · exact ⟨_, ‹_›, h⟩
  · cases h

theorem withArgument_held {start n : Nat} {k : List Byte → State → Result} {m : List Byte}
    (h : readBytes s.argument start n = some m) : withArgument start n k s = k m s := by
  simp [withArgument, h]

end Sys2Proof.Machine
end

