-- ==== Sys2Proof/Laws/Sponge.lean ====
section
/-! SUPPORT. What the effects of the sponge operations leave unchanged, and what a whole hash leaves in the state. -/

namespace Sys2Proof.Machine

/-- Everything of a state but `A`, `POS`, `PHASE` and that `A` and `POS` hold a value. -/
def besideSponge (s t : State) : Prop :=
  t.err = s.err ∧ t.ovalid = s.ovalid ∧ t.digest = s.digest ∧ t.digestHeld = s.digestHeld ∧ t.argument = s.argument ∧
    t.ilen = s.ilen ∧ t.ilenHeld = s.ilenHeld ∧ t.out = s.out ∧ t.olen = s.olen ∧ t.maxInput = s.maxInput ∧
    t.host = s.host ∧ t.reply = s.reply

theorem besideSponge_refl (s : State) : besideSponge s s := by simp [besideSponge]

theorem besideSponge_trans {s t u : State} (h : besideSponge s t) (k : besideSponge t u) : besideSponge s u := by
  simp only [besideSponge] at *
  simp [h, k]

theorem spongeInit_beside (s : State) : besideSponge s (spongeInit s) := by simp [besideSponge, spongeInit]

theorem spongeAbsorb_beside (b : Byte) (s : State) : besideSponge s (spongeAbsorb b s) := by
  simp only [spongeAbsorb]
  split <;> simp [besideSponge]

@[simp] theorem spongeAbsorb_phase (b : Byte) (s : State) : (spongeAbsorb b s).phase = s.phase := by
  simp only [spongeAbsorb]
  split <;> rfl

@[simp] theorem spongeAbsorb_lanesHeld (b : Byte) (s : State) : (spongeAbsorb b s).lanesHeld = s.lanesHeld := by
  simp only [spongeAbsorb]
  split <;> rfl

theorem spongePad_beside (s : State) : besideSponge s (spongePad s) := by simp [besideSponge, spongePad]

@[simp] theorem spongeInit_lanes (s : State) : (spongeInit s).lanes = Vector.replicate 25 0 := rfl
@[simp] theorem spongeInit_pos (s : State) : (spongeInit s).pos = 0 := rfl
@[simp] theorem spongeInit_phase (s : State) : (spongeInit s).phase = .absorb := rfl
@[simp] theorem spongeInit_lanesHeld (s : State) : (spongeInit s).lanesHeld = true := rfl
@[simp] theorem spongePad_lanes (s : State) : (spongePad s).lanes = permute (padLanes s.lanes s.pos.toNat) := by simp [spongePad]
@[simp] theorem spongePad_pos (s : State) : (spongePad s).pos = 0 := by simp [spongePad]
@[simp] theorem spongePad_phase (s : State) : (spongePad s).phase = .final := by simp [spongePad]
@[simp] theorem spongePad_lanesHeld (s : State) : (spongePad s).lanesHeld = s.lanesHeld := by simp [spongePad]
@[simp] theorem spongeSqueeze_lanes (s : State) : (spongeSqueeze s).lanes = s.lanes := by simp [spongeSqueeze]
@[simp] theorem spongeSqueeze_pos (s : State) : (spongeSqueeze s).pos = s.pos := by simp [spongeSqueeze]
@[simp] theorem spongeSqueeze_phase (s : State) : (spongeSqueeze s).phase = .idle := by simp [spongeSqueeze]
@[simp] theorem spongeSqueeze_lanesHeld (s : State) : (spongeSqueeze s).lanesHeld = s.lanesHeld := by simp [spongeSqueeze]
@[simp] theorem spongeSqueeze_digest (s : State) : (spongeSqueeze s).digest = digestOf s.lanes := by simp [spongeSqueeze]
@[simp] theorem spongeSqueeze_digestHeld (s : State) : (spongeSqueeze s).digestHeld = true := by simp [spongeSqueeze]

/-- `POS + 1` as a number, while `POS` is in its range (R24). -/
theorem pos_succ_toNat {p : BitVec 8} (h : p.toNat ≤ 135) : (p + 1).toNat = p.toNat + 1 := by
  rw [BitVec.toNat_add]
  simp
  omega

/-- SP_ABSORB keeps `POS` in its range (R24). -/
theorem spongeAbsorb_pos_le (b : Byte) {s : State} (h : s.pos.toNat ≤ 135) : (spongeAbsorb b s).pos.toNat ≤ 135 := by
  simp only [spongeAbsorb]
  split
  · simp
  · rename_i hne
    have := pos_succ_toNat h
    simp only [Config.rate] at hne
    simp only [State.putSponge_pos]
    omega

/-- A byte that does not fill the block (R102). -/
theorem spongeAbsorb_within (b : Byte) {s : State} (h : s.pos.toNat < 135) :
    spongeAbsorb b s = s.putSponge (xorStateByte s.lanes s.pos.toNat b) (s.pos + 1) := by
  have := pos_succ_toNat (Nat.le_of_lt h)
  rw [spongeAbsorb, if_neg (by rw [this]; show ¬ s.pos.toNat + 1 = 136; omega)]

/-- The byte that fills the block (R102). -/
theorem spongeAbsorb_fills (b : Byte) {s : State} (h : s.pos.toNat = 135) :
    spongeAbsorb b s = s.putSponge (permute (xorStateByte s.lanes s.pos.toNat b)) 0 := by
  have := pos_succ_toNat (Nat.le_of_eq h)
  rw [spongeAbsorb, if_pos (by rw [this]; show s.pos.toNat + 1 = 136; omega)]

@[simp] theorem absorbBytes_nil (a : Lanes) (p : Nat) : absorbBytes [] a p = (a, p) := rfl

theorem absorbBytes_cons (b : Byte) (m : List Byte) (a : Lanes) (p : Nat) :
    absorbBytes (b :: m) a p =
      if p + 1 = 136 then absorbBytes m (permute (xorStateByte a p b)) 0 else absorbBytes m (xorStateByte a p b) (p + 1) := rfl

theorem foldl_spongeAbsorb_beside (m : List Byte) (s : State) :
    besideSponge s (m.foldl (fun t b => spongeAbsorb b t) s) := by
  induction m generalizing s with
  | nil => exact besideSponge_refl s
  | cons b m ih => exact besideSponge_trans (spongeAbsorb_beside b s) (ih _)

@[simp] theorem foldl_spongeAbsorb_lanesHeld (m : List Byte) (s : State) :
    (m.foldl (fun t b => spongeAbsorb b t) s).lanesHeld = s.lanesHeld := by
  induction m generalizing s with
  | nil => rfl
  | cons b m ih => rw [List.foldl_cons, ih, spongeAbsorb_lanesHeld]

@[simp] theorem foldl_spongeAbsorb_phase (m : List Byte) (s : State) :
    (m.foldl (fun t b => spongeAbsorb b t) s).phase = s.phase := by
  induction m generalizing s with
  | nil => rfl
  | cons b m ih => rw [List.foldl_cons, ih, spongeAbsorb_phase]

variable (m : List Byte) (s : State)

@[simp] theorem hashBytes_digestHeld : (hashBytes m s).digestHeld = true := rfl
@[simp] theorem hashBytes_phase : (hashBytes m s).phase = .idle := rfl
@[simp] theorem hashBytes_pos : (hashBytes m s).pos = 0 := rfl

@[simp] theorem hashBytes_lanesHeld : (hashBytes m s).lanesHeld = true := by
  simp only [hashBytes, spongeSqueeze, spongePad, State.putPhase_lanesHeld, State.putDigest_lanesHeld,
    State.putSponge_lanesHeld]
  rw [foldl_spongeAbsorb_lanesHeld]
  rfl

/-- A hash leaves everything but `A`, `POS`, `PHASE` and `DG` as it was (R35, R53). -/
theorem hashBytes_beside :
    (hashBytes m s).err = s.err ∧ (hashBytes m s).ovalid = s.ovalid ∧ (hashBytes m s).argument = s.argument ∧
      (hashBytes m s).ilen = s.ilen ∧ (hashBytes m s).ilenHeld = s.ilenHeld ∧ (hashBytes m s).out = s.out ∧
      (hashBytes m s).olen = s.olen ∧ (hashBytes m s).maxInput = s.maxInput ∧ (hashBytes m s).host = s.host ∧
      (hashBytes m s).reply = s.reply := by
  have h := besideSponge_trans (besideSponge_trans (spongeInit_beside s) (foldl_spongeAbsorb_beside m _))
    (spongePad_beside _)
  simp only [besideSponge] at h
  simp [hashBytes, spongeSqueeze, h]

@[simp] theorem hashBytes_err : (hashBytes m s).err = s.err := (hashBytes_beside m s).1
@[simp] theorem hashBytes_ovalid : (hashBytes m s).ovalid = s.ovalid := (hashBytes_beside m s).2.1
@[simp] theorem hashBytes_argument : (hashBytes m s).argument = s.argument := (hashBytes_beside m s).2.2.1
@[simp] theorem hashBytes_ilen : (hashBytes m s).ilen = s.ilen := (hashBytes_beside m s).2.2.2.1
@[simp] theorem hashBytes_ilenHeld : (hashBytes m s).ilenHeld = s.ilenHeld := (hashBytes_beside m s).2.2.2.2.1
@[simp] theorem hashBytes_out : (hashBytes m s).out = s.out := (hashBytes_beside m s).2.2.2.2.2.1
@[simp] theorem hashBytes_olen : (hashBytes m s).olen = s.olen := (hashBytes_beside m s).2.2.2.2.2.2.1
@[simp] theorem hashBytes_maxInput : (hashBytes m s).maxInput = s.maxInput := (hashBytes_beside m s).2.2.2.2.2.2.2.1
@[simp] theorem hashBytes_host : (hashBytes m s).host = s.host := (hashBytes_beside m s).2.2.2.2.2.2.2.2.1
@[simp] theorem hashBytes_reply : (hashBytes m s).reply = s.reply := (hashBytes_beside m s).2.2.2.2.2.2.2.2.2

/-- Absorbing byte by byte in the state is the absorb phase of R105, while `POS` is in its range. -/
theorem foldl_spongeAbsorb_eq (m : List Byte) (s : State) (h : s.pos.toNat ≤ 135) :
    (m.foldl (fun t b => spongeAbsorb b t) s).lanes = (absorbBytes m s.lanes s.pos.toNat).1 ∧
      (m.foldl (fun t b => spongeAbsorb b t) s).pos.toNat = (absorbBytes m s.lanes s.pos.toNat).2 := by
  induction m generalizing s with
  | nil => exact ⟨rfl, rfl⟩
  | cons b m ih =>
    have hsucc := pos_succ_toNat h
    have := ih (spongeAbsorb b s) (spongeAbsorb_pos_le b h)
    rw [List.foldl_cons, this.1, this.2]
    simp only [absorbBytes, spongeAbsorb, hsucc]
    split
    · simp
    · simp only [State.putSponge_lanes, State.putSponge_pos, hsucc, and_self]

end Sys2Proof.Machine
end

