-- ==== Sys2Proof/Laws/HostLevel.lean ====
section
/-! SUPPORT. What each host-level operation can answer, said once: its inversion, by cases of success and error. -/

namespace Sys2Proof.Machine

variable {s t : State}

/-- The hash of a message always answers. -/
theorem hashAndDeliver_eq (result : List Byte → List Byte) (m : List Byte) (s : State) :
    hashAndDeliver result m s = .next ((hashBytes m s).deliver (result (hashBytes m s).digest.toList)) := rfl

/-- `DG` holds a value when its bytes are read for the result, so U11's read before the first SP_SQUEEZE does not occur. -/
theorem hashAndDeliver_digestHeld {result : List Byte → List Byte} {m : List Byte} (h : hashAndDeliver result m s = .next t) :
    (hashBytes m s).digestHeld = true ∧ t.digestHeld = true ∧ t.digest = (hashBytes m s).digest := by
  rw [hashAndDeliver_eq] at h
  obtain rfl := Host.Outcome.next.inj h
  simp

/-- HASH answers where the host has written its argument. -/
theorem execHash_held {m : List Byte} (hr : s.ready) (hm : readBytes s.argument 0 s.ilen = some m) :
    execHash s = .next ((hashBytes m s.clearStatus).deliver (hashBytes m s.clearStatus).digest.toList) := by
  rw [execHash, hostLevel_ready hr, hashBody, withArgument_held (by simpa using hm), hashAndDeliver_eq]
  rfl

/-- DERIVE_ADDRESS answers where the host has written the last 64 bytes of an argument that is long enough. -/
theorem execDeriveAddress_held {m : List Byte} (hr : s.ready) (hlen : 65 ≤ s.ilen)
    (hm : readBytes s.argument (s.ilen - 64) 64 = some m) :
    execDeriveAddress s =
      .next ((hashBytes m s.clearStatus).deliver (addressOf (hashBytes m s.clearStatus).digest.toList)) := by
  rw [execDeriveAddress, hostLevel_ready hr, deriveAddressBody, if_neg, withArgument_held (m := m), hashAndDeliver_eq]
  · rw [show s.ilen - 64 = s.ilen - 65 + 1 by omega] at hm
    exact hm
  · simp only [State.clearStatus_ilen, Config.keyTail]
    omega

/-- CHECKSUM answers where the argument is a text it accepts. -/
theorem execChecksum_held {m : List Byte} (hr : s.ready) (hlen : s.ilen = 40) (hok : scanText s.argument 0 40 = some true)
    (hm : readBytes s.argument 0 40 = some m) :
    execChecksum s =
      .next ((hashBytes m s.clearStatus).deliver (recaseText m (hashBytes m s.clearStatus).digest.toList)) := by
  rw [execChecksum, hostLevel_ready hr, checksumBody, if_pos (show s.clearStatus.ilen = Config.addrChars from hlen)]
  simp only [State.clearStatus_argument, Config.addrChars, hok]
  rw [withArgument_held (by simpa using hm), hashAndDeliver_eq]

/-- HASH answers only with the result of a hash of the whole argument. -/
theorem execHash_next (h : execHash s = .next t) :
    s.ready ∧ ∃ m, readBytes s.argument 0 s.ilen = some m ∧
      t = (hashBytes m s.clearStatus).deliver (hashBytes m s.clearStatus).digest.toList := by
  obtain ⟨hr, hb⟩ := hostLevel_next h
  obtain ⟨m, hm, hk⟩ := withArgument_next hb
  rw [hashAndDeliver_eq] at hk
  exact ⟨hr, m, hm, by simpa using hk.symm⟩

/-- DERIVE_ADDRESS answers only with the error, for a short argument, or with the tail of a hash. -/
theorem execDeriveAddress_next (h : execDeriveAddress s = .next t) :
    s.ready ∧
      ((s.ilen < 65 ∧ t = s.clearStatus.raiseError .invalidPublicKeyLength) ∨
        (65 ≤ s.ilen ∧ ∃ m, readBytes s.argument (s.ilen - 64) 64 = some m ∧
          t = (hashBytes m s.clearStatus).deliver (addressOf (hashBytes m s.clearStatus).digest.toList))) := by
  obtain ⟨hr, hb⟩ := hostLevel_next h
  refine ⟨hr, ?_⟩
  rw [deriveAddressBody] at hb
  split at hb
  · exact .inl ⟨‹_›, by simpa [raise] using hb.symm⟩
  · rename_i hlen
    simp only [State.clearStatus_ilen, Config.keyTail] at hlen
    obtain ⟨m, hm, hk⟩ := withArgument_next hb
    rw [hashAndDeliver_eq] at hk
    refine .inr ⟨by omega, m, ?_, by simpa using hk.symm⟩
    rw [show s.ilen - 64 = s.ilen - 65 + 1 by omega]
    exact hm

/-- CHECKSUM answers only with the error, for an argument that is no address text, or with the recased text. -/
theorem execChecksum_next (h : execChecksum s = .next t) :
    s.ready ∧
      (((s.ilen ≠ 40 ∨ scanText s.argument 0 40 = some false) ∧
          t = s.clearStatus.raiseError .invalidAddressFormat) ∨
        (s.ilen = 40 ∧ scanText s.argument 0 40 = some true ∧ ∃ m, readBytes s.argument 0 40 = some m ∧
          t = (hashBytes m s.clearStatus).deliver (recaseText m (hashBytes m s.clearStatus).digest.toList))) := by
  obtain ⟨hr, hb⟩ := hostLevel_next h
  refine ⟨hr, ?_⟩
  rw [checksumBody] at hb
  split at hb
  · rename_i hlen
    split at hb
    · cases hb
    · exact .inl ⟨.inr ‹_›, by simpa [raise] using hb.symm⟩
    · obtain ⟨m, hm, hk⟩ := withArgument_next hb
      rw [hashAndDeliver_eq] at hk
      exact .inr ⟨hlen, ‹_›, m, hm, by simpa using hk.symm⟩
  · rename_i hlen
    exact .inl ⟨.inl hlen, by simpa [raise] using hb.symm⟩

end Sys2Proof.Machine
end

