-- ==== Sys2Proof/Laws/PerInstr.lean ====
section
/-! SUPPORT. The family RowOfWord: the word of a well-formed operation is selected by the opcode-map row of its own mnemonic (R63),
one lemma per constructor. -/

namespace Sys2Proof.Laws.RowOfWord

/-- The row of the opcode map with the operation's mnemonic selects the operation's word (R63). -/
def Statement (i : Instr) : Prop :=
  i.wellFormed = true → ∃ row ∈ opcodeRows, row.mnemonic = i.mnemonic ∧ row.selects (encode i) = true

/-- A row found by its place in the map. -/
theorem of_row {i : Instr} (row : OpcodeRow) (hmem : row ∈ opcodeRows) (hname : row.mnemonic = i.mnemonic)
    (hsel : row.selects (encode i) = true) : Statement i := fun _ => ⟨row, hmem, hname, hsel⟩

theorem theta : Statement .theta := of_row _ (List.mem_of_getElem? (i := 0) rfl) rfl (by decide)
theorem rho : Statement .rho := of_row _ (List.mem_of_getElem? (i := 1) rfl) rfl (by decide)
theorem pi : Statement .pi := of_row _ (List.mem_of_getElem? (i := 2) rfl) rfl (by decide)
theorem chi : Statement .chi := of_row _ (List.mem_of_getElem? (i := 3) rfl) rfl (by decide)
theorem iota (r : RoundIndex) : Statement (.iota r) := fun h =>
  of_row _ (List.mem_of_getElem? (i := 4) rfl) rfl ((by decide :
    ∀ q : RoundIndex, roundIndexOk q = true → OpcodeRow.selects ⟨"IOTA", 0x0005, 0xE0FF, true⟩ (encode (.iota q)) = true) r h) h
theorem round (r : RoundIndex) : Statement (.round r) := fun h =>
  of_row _ (List.mem_of_getElem? (i := 5) rfl) rfl ((by decide :
    ∀ q : RoundIndex, roundIndexOk q = true → OpcodeRow.selects ⟨"ROUND", 0x0006, 0xE0FF, true⟩ (encode (.round q)) = true) r h) h
theorem permute : Statement .permute := of_row _ (List.mem_of_getElem? (i := 6) rfl) rfl (by decide)
theorem spInit : Statement .spInit := of_row _ (List.mem_of_getElem? (i := 7) rfl) rfl (by decide)
theorem spAbsorb (b : Byte) : Statement (.spAbsorb b) :=
  of_row _ (List.mem_of_getElem? (i := 8) rfl) rfl ((by decide +kernel :
    ∀ c : Byte, OpcodeRow.selects ⟨"SP_ABSORB", 0x0011, 0x00FF, false⟩ (encode (.spAbsorb c)) = true) b)
theorem spPad : Statement .spPad := of_row _ (List.mem_of_getElem? (i := 9) rfl) rfl (by decide)
theorem spSqueeze : Statement .spSqueeze := of_row _ (List.mem_of_getElem? (i := 10) rfl) rfl (by decide)
theorem hash : Statement .hash := of_row _ (List.mem_of_getElem? (i := 11) rfl) rfl (by decide)
theorem deriveAddress : Statement .deriveAddress := of_row _ (List.mem_of_getElem? (i := 12) rfl) rfl (by decide)
theorem checksum : Statement .checksum := of_row _ (List.mem_of_getElem? (i := 13) rfl) rfl (by decide)

end Sys2Proof.Laws.RowOfWord
end

