-- ==== Sys2Proof/Laws/Permutation.lean ====
section
/-! SUPPORT. One spec lemma per step of the permutation: each lane of its result (R81 to R85), and the round loop (R87). -/

namespace Sys2Proof.Machine

variable (a : Lanes) {x y i r : Nat}

theorem lane_theta (hx : x < 5) (hy : y < 5) :
    lane (theta a) (x + 5 * y) = lane a (x + 5 * y) ^^^ columnMix a x := by
  rw [theta, lane_lanesOf _ hx hy, laneAt_eq_lane a hx hy]

theorem lane_rho (hi : i < 25) : lane (rho a) i = rotl (lane a i) (rotationOffset i) := by
  rw [rho, lane_lanesOf_index _ hi, laneAt_eq_lane a (Nat.mod_lt i (by omega)) (Nat.div_lt_of_lt_mul (by omega)),
    Nat.mod_add_div]

/-- The lane that PI leaves at `(x,y)`. -/
theorem lane_piMove (hx : x < 5) (hy : y < 5) : lane (piMove a) (x + 5 * y) = laneAt a (x + 3 * y) x := by
  rw [piMove, lane_lanesOf _ hx hy]

theorem lane_chi (hx : x < 5) (hy : y < 5) :
    lane (chi a) (x + 5 * y) = laneAt a x y ^^^ (~~~ laneAt a (x + 1) y &&& laneAt a (x + 2) y) := by
  rw [chi, lane_lanesOf _ hx hy]

theorem lane_iota (hi : i < 25) : lane (iota r a) i = if i = 0 then lane a 0 ^^^ roundConstant r else lane a i := by
  rw [iota, lane_setLane _ _ _ _ hi]
  by_cases h : i = 0
  · rw [if_pos h, if_pos h.symm]
  · rw [if_neg h, if_neg fun h' => h h'.symm]

theorem rotationOffset_lt (i : Nat) : rotationOffset i < 64 := by
  by_cases h : i < 25
  · interval_cases i <;> decide
  · have : rotationOffsets.toList.length ≤ i := by simpa using h
    simp [rotationOffset, List.getD_eq_getElem?_getD, List.getElem?_eq_none this]

/-- Bit `j` of a lane rotated by `n` becomes bit `(j + n) mod 64` (R88). -/
theorem rotl_bit (v : Lane) {n j : Nat} (hn : n < 64) (hj : j < 64) :
    (rotl v n).getLsbD ((j + n) % 64) = v.getLsbD j := by
  have hlt : (j + n) % 64 < 64 := Nat.mod_lt _ (by omega)
  rw [rotl, BitVec.getLsbD_rotateLeft, Nat.mod_eq_of_lt hn]
  by_cases hwrap : (j + n) % 64 < n
  · simp only [hwrap, decide_true, cond_true]
    congr 1
    omega
  · simp only [hwrap, decide_false, cond_false, hlt, decide_true, Bool.true_and]
    congr 1
    omega

end Sys2Proof.Machine
end

