-- ==== Sys2Proof/Tests/Slice0.lean ====
section
/-! SUPPORT. The model's own tests: the words of the spec's decoder vectors, ill-formed operations, the spec's vectors one step at a time,
and for every obligation with hypotheses a state and operands that meet them. -/

namespace Sys2Proof.Tests
open Sys2Proof.Machine

set_option Elab.async false

/-! The decoder (95_test_vectors.md 2.6, V-EN-1 to V-EN-32; bits written out from R60 to R63). -/

theorem test_decode_en1 : decodeTableWord 16 0b0000000000000001 = some (.theta) := by decide
theorem test_decode_en2 : decodeTableWord 16 0b0000000000000010 = some (.rho) := by decide
theorem test_decode_en3 : decodeTableWord 16 0b0000000000000011 = some (.pi) := by decide
theorem test_decode_en4 : decodeTableWord 16 0b0000000000000100 = some (.chi) := by decide
theorem test_decode_en5 : decodeTableWord 16 0b0000000000000101 = some (.iota 0) := by decide
theorem test_decode_en6 : decodeTableWord 16 0b0001011100000101 = some (.iota 23) := by decide
theorem test_decode_en7 : decodeTableWord 16 0b0000000000000110 = some (.round 0) := by decide
theorem test_decode_en8 : decodeTableWord 16 0b0000000100000110 = some (.round 1) := by decide
theorem test_decode_en9 : decodeTableWord 16 0b0001011100000110 = some (.round 23) := by decide
theorem test_decode_en10 : decodeTableWord 16 0b0000000000000111 = some (.permute) := by decide
theorem test_decode_en11 : decodeTableWord 16 0b0000000000010000 = some (.spInit) := by decide
theorem test_decode_en12 : decodeTableWord 16 0b0000000000010001 = some (.spAbsorb 0x00) := by decide
theorem test_decode_en13 : decodeTableWord 16 0b0110100000010001 = some (.spAbsorb 0x68) := by decide
theorem test_decode_en14 : decodeTableWord 16 0b1111111100010001 = some (.spAbsorb 0xFF) := by decide
theorem test_decode_en15 : decodeTableWord 16 0b0000000000010010 = some (.spPad) := by decide
theorem test_decode_en16 : decodeTableWord 16 0b0000000000010011 = some (.spSqueeze) := by decide
theorem test_decode_en17 : decodeTableWord 16 0b0000000000100000 = some (.hash) := by decide
theorem test_decode_en18 : decodeTableWord 16 0b0000000000110000 = some (.deriveAddress) := by decide
theorem test_decode_en19 : decodeTableWord 16 0b0000000001000000 = some (.checksum) := by decide
theorem test_reserved_en20 : decodeTableWord 16 0x0000 = none := by decide
theorem test_reserved_en21 : decodeTableWord 16 0xFFFF = none := by decide
theorem test_reserved_en22 : decodeTableWord 16 0x0101 = none := by decide
theorem test_reserved_en23 : decodeTableWord 16 0x1805 = none := by decide
theorem test_reserved_en24 : decodeTableWord 16 0x1F06 = none := by decide
theorem test_reserved_en25 : decodeTableWord 16 0x2006 = none := by decide
theorem test_reserved_en26 : decodeTableWord 16 0x8005 = none := by decide
theorem test_reserved_en27 : decodeTableWord 16 0x0008 = none := by decide
theorem test_reserved_en28 : decodeTableWord 16 0x0014 = none := by decide
theorem test_reserved_en29 : decodeTableWord 16 0x0120 = none := by decide
theorem test_reserved_en30 : decodeTableWord 16 0x0021 = none := by decide
theorem test_reserved_en31 : decodeTableWord 16 0x0050 = none := by decide
theorem test_reserved_en32 : decodeTableWord 16 0x0110 = none := by decide

/-! Why a word is reserved (R64). -/

theorem test_reject_opcode : decode 0x0008 = .error .reservedOpcode := by rfl
theorem test_reject_operand : decode 0x0101 = .error .operandNotZero := by rfl
theorem test_reject_round_bits : decode 0x2006 = .error .operandNotZero := by rfl
theorem test_reject_round_index : decode 0x1805 = .error .roundIndexReserved := by rfl

/-! Well-formedness: an ill-formed term for each check, and the boundary that passes (R62). -/

theorem test_illformed_iota : (Instr.iota 24).wellFormed = false := by decide
theorem test_illformed_round : (Instr.round 31).wellFormed = false := by decide
theorem test_wellformed_iota : (Instr.iota 23).wellFormed = true := by decide

/-! The constant tables against the checks the spec gives for them (R32, R33). -/

/-- One step of the shift register of R32: output bit 0, shift left, fold bit 8 back with 0x171. -/
def lfsrNext (v : Nat) : Nat := if 2 * v < 256 then 2 * v else (2 * v) ^^^ 0x171

/-- Output `k` of the shift register of R32. -/
def lfsrOutput (k : Nat) : Bool := (Nat.repeat lfsrNext k 1) % 2 = 1

/-- Bit `2^j - 1` of `RC[r]` is output `j + 7*r` (R32). -/
theorem test_rc_from_lfsr :
    (List.range 24).all (fun r => (List.range 7).all fun j =>
      (roundConstant r).getLsbD (2 ^ j - 1) == lfsrOutput (j + 7 * r)) = true := by decide +kernel

/-- Every constant has bits only at 0, 1, 3, 7, 15, 31, 63 (R32). -/
theorem test_rc_bits :
    (List.range 24).all (fun r => (roundConstant r &&& ~~~ 0x800000008000808B) == 0) = true := by decide +kernel

/-- The walk of R33 from `(1,0)`: entries of `ROT` in the order it visits them. -/
def rotWalk : Nat → Nat → Nat → List (Nat × Nat)
  | 0, _, _ => []
  | n + 1, x, y => (x + 5 * y, ((24 - n) * (25 - n) / 2) % 64) :: rotWalk n y ((2 * x + 3 * y) % 5)

theorem test_rot_from_walk :
    ((rotWalk 24 1 0).all fun p => rotationOffset p.1 == p.2) = true ∧ rotationOffset 0 = 0 := by decide

/-! States for the tests. -/

/-- `IN[start..]` holding the bytes `m`. -/
def argumentAt (start : Nat) (m : List Byte) : Memory := m.zipIdx.map fun p => (start + p.2, p.1)

/-- The reset state with the argument `m` written (R182). -/
def withArgument (m : List Byte) : State :=
  { State.reset with argument := argumentAt 0 m, ilen := m.length, ilenHeld := true }

/-- The reset state with `A = a` held. -/
def withLanes (a : Lanes) : State := { State.reset with lanes := a, lanesHeld := true }

/-- A state in ABSORB with position `p`. -/
def absorbing (a : Lanes) (p : BitVec 8) : State := { withLanes a with phase := .absorb, pos := p }

def zeroLanes : Lanes := Vector.replicate 25 0

/-- Every lane `i + 1`, the start of V-TH-3 and V-CH-4. -/
def countLanes : Lanes := Vector.ofFn fun i => BitVec.ofNat 64 (i.val + 1)

/-- A next state that passes a check. -/
def nextIs (p : State → Bool) : Result → Bool
  | .next t => p t
  | _ => false

theorem next_of_nextIs {p : State → Bool} {r : Result} (h : nextIs p r = true) : ∃ t, r = .next t ∧ p t = true := by
  cases r with
  | next t => exact ⟨t, rfl, h⟩
  | fault f => cases h
  | refused f => cases h

/-- The result bytes `OUT[0..OLEN-1]`. -/
def resultOf (t : State) : List Byte := t.out.toList.take t.olen.toNat

def faultIs (f : Fault) : Result → Bool
  | .fault g => f = g
  | _ => false

def refusedIs (f : Refusal) : Result → Bool
  | .refused g => f = g
  | _ => false

/-- The `n` bytes a test vector prints as one hexadecimal number, the first byte printed first. -/
def bytesOf (n v : Nat) : List Byte := (List.range n).map fun i => BitVec.ofNat 8 (v >>> (8 * (n - 1 - i)))

/-- The 65-byte key of V-S8-4. -/
def key : List Byte :=
  bytesOf 65 0x0479be667ef9dcbbac55a06295ce870b07029bfcdb2dce28d959f2815b16f81798483ada7726a3c4655da4fbfc0e1108a8fd17b448a68554199c47d08ffb10d4b8

/-- The address of V-S8-4 as text (V-CS-1): the ASCII codes of `7e5f4552091a69125d5dfcb7b8c2659029395bdf`. -/
def addressText : List Byte :=
  bytesOf 40 0x37653566343535323039316136393132356435646663623762386332363539303239333935626466

/-- The output of V-CS-1: the ASCII codes of `7E5F4552091A69125d5DfCb7b8C2659029395Bdf`. -/
def mixedText : List Byte :=
  bytesOf 40 0x37453546343535323039314136393132356435446643623762384332363539303239333935426466

/-! The Permutation Engine (95_test_vectors.md 2.1). -/

/-- V-TH-1: lanes 1 and 4, 0 and 24 after THETA of a single bit. -/
theorem test_theta_th1 :
    nextIs (fun t => t.lanes = #v[1, 1, 0, 0, 2, 0, 1, 0, 0, 2, 0, 1, 0, 0, 2, 0, 1, 0, 0, 2, 0, 1, 0, 0, 2])
      (exec .theta (withLanes (zeroLanes.set 0 1))) = true := by decide +kernel

/-- V-TH-3: row 0 and lane 24. -/
theorem test_theta_th3 :
    nextIs (fun t => (List.range 5).map (lane t.lanes) = [0x10, 0x0D, 0x1D, 0x1D, 0x1F] && lane t.lanes 24 = 0x03)
      (exec .theta (withLanes countLanes)) = true := by decide +kernel

/-- V-RH-2: the wrap at bit 63, lanes 0 to 3 and 24. -/
theorem test_rho_rh2 :
    nextIs (fun t => (List.range 4).map (lane t.lanes) =
        [0x8000000000000001, 0x0000000000000003, 0x6000000000000000, 0x0000000018000000] &&
        lane t.lanes 24 = 0x0000000000006000)
      (exec .rho (withLanes (Vector.replicate 25 0x8000000000000001))) = true := by decide +kernel

/-- V-PI-1. -/
theorem test_pi_pi1 :
    nextIs (fun t => t.lanes.toList = [0, 6, 12, 18, 24, 3, 9, 10, 16, 22, 1, 7, 13, 19, 20, 4, 5, 11, 17, 23, 2, 8, 14, 15, 21])
      (exec .pi (withLanes (Vector.ofFn fun i => BitVec.ofNat 64 i.val))) = true := by decide +kernel

/-- V-CH-1. -/
theorem test_chi_ch1 :
    nextIs (fun t => (List.range 6).map (lane t.lanes) = [0x05, 0x0B, 0x17, 0x0F, 0x1D, 0x00])
      (exec .chi (withLanes ((((zeroLanes.set 0 1).set 1 3).set 2 7).set 3 0xF |>.set 4 0x1F))) = true := by decide +kernel

/-- V-CH-4: row 3. -/
theorem test_chi_ch4 :
    nextIs (fun t => (List.range 5).map (fun x => lane t.lanes (15 + x)) = [0x12, 0x10, 0x16, 0x13, 0x15])
      (exec .chi (withLanes countLanes)) = true := by decide +kernel

/-- V-IO-1 with r = 23, and V-IO-2. -/
theorem test_iota_io1 :
    nextIs (fun t => lane t.lanes 0 = 0x8000000080008008) (exec (.iota 23) (withLanes zeroLanes)) = true := by decide +kernel
theorem test_iota_io2 :
    nextIs (fun t => lane t.lanes 0 = 0x7FFFFFFFFFFF7F75)
      (exec (.iota 2) (withLanes (zeroLanes.set 0 0xFFFFFFFFFFFFFFFF))) = true := by decide +kernel

/-- V-RD-2: row 0 and lane 24. -/
theorem test_round_rd2 :
    nextIs (fun t => (List.range 5).map (lane t.lanes) =
        [0x8083, 0x0000100000000000, 0x8000, 0x1, 0x0000100000008000] && lane t.lanes 24 = 0x4)
      (exec (.round 1) (withLanes (zeroLanes.set 0 1))) = true := by decide +kernel

/-- V-PM-1: lanes 0, 4 and 24. -/
theorem test_permute_pm1 :
    nextIs (fun t => lane t.lanes 0 = 0xF1258F7940E1DDE7 && lane t.lanes 4 = 0x8B284E056253D057 &&
        lane t.lanes 24 = 0xEAF1FF7B5CECA249)
      (exec .permute (withLanes zeroLanes)) = true := by decide +kernel

/-! The Sponge Processor (95_test_vectors.md 2.2). -/

/-- R101, V-EX-10. -/
theorem test_spInit :
    nextIs (fun t => t.statusWord = 0x01 && t.lanes = zeroLanes && t.pos = 0 && t.lanesHeld)
      (exec .spInit { withLanes countLanes with phase := .final }) = true := by decide

/-- V-SP-1: the second byte of "hello". -/
theorem test_spAbsorb_sp1 :
    nextIs (fun t => lane t.lanes 0 = 0x6568 && t.pos = 2)
      (exec (.spAbsorb 0x65) (absorbing (zeroLanes.set 0 0x68) 1)) = true := by decide +kernel

/-- V-SP-6: the 136th byte permutes (its lane 0 and the position). -/
theorem test_spAbsorb_sp6 :
    nextIs (fun t => lane t.lanes 0 = 0xD498EC4C50D2E1F1 && t.pos = 0)
      (exec (.spAbsorb 0x61)
        (absorbing (Vector.ofFn fun i => if i.val < 16 then 0x6161616161616161 else if i.val = 16 then 0x0061616161616161 else 0) 135)) =
      true := by decide +kernel

/-- V-SP-2: lanes 0 and 24 after padding the empty message. -/
theorem test_spPad_sp2 :
    nextIs (fun t => lane t.lanes 0 = 0x3C23F7860146D2C5 && lane t.lanes 24 = 0xA3FE1AF7779FAFD7 && t.statusWord = 0x02)
      (exec .spPad (absorbing zeroLanes 0)) = true := by decide +kernel

/-- V-SP-4: where the two padding bytes coincide, byte 135 gets 0x81. -/
theorem test_padLanes_sp4 : lane (padLanes (zeroLanes.set 16 0x0061616161616161) 135) 16 = 0x8161616161616161 := by decide +kernel

/-- R104: the lane of the example gives its bytes least significant first. -/
theorem test_spSqueeze :
    nextIs (fun t => t.digest.toList.take 8 = [0xc5, 0xd2, 0x46, 0x01, 0x86, 0xf7, 0x23, 0x3c] && t.phase = .idle)
      (exec .spSqueeze { withLanes (zeroLanes.set 0 0x3C23F7860146D2C5) with phase := .final }) = true := by decide +kernel

/-! The host-level operations (95_test_vectors.md Part 1, 2.3 to 2.5). -/

/-- V-S8-1 (V-HA-1). -/
theorem test_hash_s81 :
    nextIs (fun t => resultOf t =
      bytesOf 32 0xc5d2460186f7233c927e7db2dcc703c0e500b653ca82273b7bfad8045d85a470 && t.statusWord = 0x10)
      (exec .hash (withArgument [])) = true := by decide +kernel

/-- V-S8-2, issued in ABSORB with bytes already absorbed (V-HA-3). -/
theorem test_hash_s82 :
    nextIs (fun t => resultOf t =
      bytesOf 32 0x1c8aff950685c2ed4bc3174f3472287b56d9517b9c948127319a09a7a36deac8)
      (exec .hash { withArgument [0x68, 0x65, 0x6c, 0x6c, 0x6f] with lanes := countLanes, lanesHeld := true, phase := .absorb, pos := 7 }) =
      true := by decide +kernel

/-- V-S8-3. -/
theorem test_keccak256_s83 :
    (keccak256 [0x62, 0x75, 0x6e]).toList =
      bytesOf 32 0xbf957509a93fd37575215ff3ee6ea85b1fb44579ae0d1ff072c55ba2f80724fc := by decide +kernel

/-- V-S8-4 with the marker replaced by 0xFF and four bytes before it (V-DA-2, V-DA-4). -/
theorem test_deriveAddress_s84 :
    nextIs (fun t => resultOf t =
      bytesOf 20 0x7e5f4552091a69125d5dfcb7b8c2659029395bdf && t.statusWord = 0x10)
      (exec .deriveAddress (withArgument ([0xde, 0xad, 0xbe, 0xef, 0xff] ++ key.drop 1))) = true := by decide +kernel

/-- V-DA-7 issued in ABSORB: STATUS 0x05, nothing else touched. -/
theorem test_deriveAddress_da7 :
    nextIs (fun t => t.statusWord = 0x05 && t.lanes = countLanes && t.pos = 7)
      (exec .deriveAddress { withArgument (key.drop 1) with lanes := countLanes, lanesHeld := true, phase := .absorb, pos := 7 }) =
      true := by decide +kernel

/-- V-CS-1. -/
theorem test_checksum_cs1 :
    nextIs (fun t => (List.range 40).map t.outByte = mixedText && t.ovalid && t.statusWord = 0x10) (exec .checksum (withArgument addressText)) = true := by
  decide +kernel

/-- V-CS-27: the mixed-case output fed back as it is. -/
theorem test_checksum_cs27 :
    nextIs (fun t => t.statusWord = 0x08) (exec .checksum (withArgument mixedText)) = true := by decide +kernel

/-- V-CS-30: the four boundaries of the character ranges. -/
theorem test_addressChar_cs30 :
    [0x2F, 0x3A, 0x60, 0x67].all (fun c => !isAddressChar c) = true ∧
      [0x30, 0x39, 0x61, 0x66].all isAddressChar = true := by decide

/-- Program 4: the text of the derived address. -/
theorem test_hexLower :
    hexLower (bytesOf 20 0x7e5f4552091a69125d5dfcb7b8c2659029395bdf) = addressText := by decide +kernel

/-! Refusals, faults, the host's side and reset (95_test_vectors.md 2.7). -/

/-- V-EX-5, V-EX-6. -/
theorem test_order_ex5 : refusedIs .spongeOrder (exec .spSqueeze State.reset) = true := by decide
theorem test_order_ex6 : refusedIs .spongeOrder (exec (.spAbsorb 0) State.reset) = true := by decide

/-- V-EX-7. -/
theorem test_engine_ex7 : faultIs .laneFileHoldsNoValue (exec .permute State.reset) = true := by decide

/-- V-EX-11, through a step. -/
theorem test_reserved_ex11 :
    refusedIs (.reservedWord .roundIndexReserved) (step (State.reset.withFetchWord 16 0x1806)) = true := by decide

/-- V-EX-12 and V-EX-13. -/
theorem test_read_ex12 : faultIs .resultHoldsNoValue (step { State.reset with host := [.readOut 0] }) = true := by decide
theorem test_read_ex13 :
    faultIs .resultHoldsNoValue (step { State.reset with ovalid := true, olen := 32, host := [.readOut 32] }) = true := by decide

/-- V-EX-15: the bound. -/
theorem test_bound_ex15 :
    refusedIs .inputTooLong (exec .hash { withArgument [] with ilen := 1025, maxInput := some 1024 }) = true := by decide

/-- V-EX-4: unit-level operations do not touch ERR. -/
theorem test_status_ex4 :
    nextIs (fun t => t.statusWord = 0x09) (exec .spInit { State.reset with err := .invalidAddressFormat }) = true := by decide

/-- V-EX-16. -/
theorem test_reset_ex16 :
    nextIs (fun t => t = State.reset) (step { absorbing countLanes 9 with host := [.reset] }) = true := by decide +kernel

/-- The word of an operation is run by the next step (R7, R60): HASH of nothing from reset, by its word. -/
theorem test_step_runs_word :
    nextIs (fun t => t.olen = 32 && t.ovalid) (step (State.reset.withFetchWord 16 0x0020)) = true := by decide +kernel

/-- A write below, at and above a written byte keeps the addresses rising. -/
theorem test_memWrite : memWrite [(3, 1), (5, 2)] 4 9 = [(3, 1), (4, 9), (5, 2)] ∧ memWrite [(3, 1)] 3 9 = [(3, 9)] := by decide

/-! Witnesses: for every obligation with hypotheses, a state and operands that meet them, for each clause at a boundary. -/

/-- A state the host has written `m` in, ready for a host-level operation. -/
theorem ready_withArgument (m : List Byte) : (withArgument m).ready := ⟨rfl, fun _ h => by simp [withArgument, State.reset] at h⟩

theorem holds_addressText : (withArgument addressText).holdsBytes 0 addressText := by
  unfold State.holdsBytes
  decide +kernel

theorem holds_mixedText : (withArgument mixedText).holdsBytes 0 mixedText := by
  unfold State.holdsBytes
  decide +kernel

theorem holds_keyTail : (withArgument key).holdsBytes ((withArgument key).ilen - 64) (key.drop 1) := by
  unfold State.holdsBytes
  decide +kernel

theorem holds_hello : (withArgument [0x68, 0x65, 0x6c, 0x6c, 0x6f]).holdsBytes 0 [0x68, 0x65, 0x6c, 0x6c, 0x6f] := by
  unfold State.holdsBytes
  decide

theorem witness_StepRunsIssuedInstruction :
    (State.reset.withFetchWord 16 0x1705).host = .issue 0x1705 :: [] ∧ decode 0x1705 = .ok (.iota 23) := ⟨rfl, rfl⟩

theorem witness_StepRefusesReservedWord :
    (State.reset.withFetchWord 16 0x1806).host = .issue 0x1806 :: [] ∧ ∀ row ∈ opcodeRows, row.selects 0x1806 = false :=
  ⟨rfl, by decide⟩

theorem witness_DecodeFollowsOpcodeRows :
    decode 0xFF11 = .ok (.spAbsorb 0xFF) ∧ ∃ row ∈ opcodeRows, row.selects 0x1706 = true := ⟨rfl, by decide⟩

theorem witness_DecodeReadsOperandFields : (23 : RoundIndex).toNat ≤ 23 := by decide

theorem witness_EncodeThenDecodeReturnsInstruction : (Instr.round 23).wellFormed = true := by decide

theorem witness_DecodedWordIsItsEncoding : decode 0x1705 = .ok (.iota 23) := rfl

/-- Of ThetaMixesColumnParities, RhoRotatesEachLaneByItsOffset, PiMovesEachLane, ChiCombinesRowNeighbours, IotaXorsRoundConstantIntoLaneZero,
RoundHasFusedForm, PermuteIsTwentyFourRounds and PiHasOrderTwentyFour, with the last index and the last lane. -/
theorem witness_lanesHeld : (withLanes countLanes).lanesHeld = true ∧ (23 : RoundIndex).toNat ≤ 23 := by decide

theorem witness_EngineResultDependsOnLanesOnly :
    ∃ t, Instr.engine .theta = true ∧ (withLanes countLanes).lanesHeld = true ∧ (absorbing countLanes 9).lanesHeld = true ∧
      (withLanes countLanes).lanes = (absorbing countLanes 9).lanes ∧ exec .theta (withLanes countLanes) = .next t :=
  ⟨_, rfl, rfl, rfl, rfl, rfl⟩

theorem witness_OperationsFaultWhileLanesHoldNoValue :
    State.reset.lanesHeld = false ∧ Instr.engine (.iota 23) = true ∧ (Instr.iota 23).wellFormed = true ∧
      ({ State.reset with phase := .absorb } : State).lanesHeld = false ∧
      ({ State.reset with phase := .final } : State).lanesHeld = false := by decide

theorem witness_ReservedRoundIndexIsRefused : 23 < (24 : RoundIndex).toNat := by decide

/-- The refused clause at reset, the last position of a block, the position that fills it. -/
theorem witness_SpAbsorbXorsByteAndPermutesFullBlock :
    State.reset.phase ≠ .absorb ∧
      ((absorbing countLanes 134).phase = .absorb ∧ (absorbing countLanes 134).lanesHeld = true ∧ (absorbing countLanes 134).pos.toNat = 134) ∧
      ((absorbing countLanes 135).phase = .absorb ∧ (absorbing countLanes 135).lanesHeld = true ∧ (absorbing countLanes 135).pos.toNat = 135) := by
  decide

theorem witness_SpPadPadsAndPermutes :
    ({ State.reset with phase := .final } : State).phase ≠ .absorb ∧ (absorbing countLanes 135).phase = .absorb ∧
      (absorbing countLanes 135).lanesHeld = true ∧ (absorbing countLanes 135).pos.toNat ≤ 135 := by decide

theorem witness_SpSqueezeReadsDigest :
    (absorbing countLanes 0).phase ≠ .final ∧ ({ withLanes countLanes with phase := .final } : State).phase = .final ∧
      ({ withLanes countLanes with phase := .final } : State).lanesHeld = true := by decide

/-- A bound exceeded by one, and an argument that is there. -/
theorem witness_HashDeliversKeccak256OfArgument :
    (({ withArgument [0] with maxInput := some 0 } : State).ilenHeld = true ∧
        ({ withArgument [0] with maxInput := some 0 } : State).maxInput = some 0 ∧
        0 < ({ withArgument [0] with maxInput := some 0 } : State).ilen) ∧
      (withArgument [0x68, 0x65, 0x6c, 0x6c, 0x6f]).ready ∧
      [0x68, 0x65, 0x6c, 0x6c, (0x6f : Byte)].length = (withArgument [0x68, 0x65, 0x6c, 0x6c, 0x6f]).ilen ∧
      (withArgument [0x68, 0x65, 0x6c, 0x6c, 0x6f]).holdsBytes 0 [0x68, 0x65, 0x6c, 0x6c, 0x6f] :=
  ⟨by decide, ready_withArgument _, rfl, holds_hello⟩

theorem witness_HashEqualsItsExpansion :
    (withArgument []).ready ∧ ([] : List Byte).length = (withArgument []).ilen ∧ (withArgument []).holdsBytes 0 [] :=
  ⟨ready_withArgument _, rfl, fun _ h => by simp at h⟩

/-- 65 bytes exactly, 64 bytes exactly, and a bound exceeded by one. -/
theorem witness_DeriveAddressTakesDigestTail :
    ((withArgument key).ready ∧ 65 ≤ (withArgument key).ilen ∧ (key.drop 1).length = 64 ∧
        (withArgument key).holdsBytes ((withArgument key).ilen - 64) (key.drop 1)) ∧
      ((withArgument (key.drop 1)).ready ∧ (withArgument (key.drop 1)).ilen < 65) ∧
      (({ withArgument [0] with maxInput := some 0 } : State).ilenHeld = true ∧
        0 < ({ withArgument [0] with maxInput := some 0 } : State).ilen) :=
  ⟨⟨ready_withArgument _, by decide, by decide, holds_keyTail⟩, ⟨ready_withArgument _, by decide⟩, by decide⟩

theorem next_derive : ∃ t, exec .deriveAddress (withArgument key) = .next t ∧ t.err = .none := by
  have h := execDeriveAddress_held (m := key.drop 1) (ready_withArgument key) (by decide) (readBytes_of_holdsBytes holds_keyTail)
  exact ⟨_, h, by simp⟩

theorem witness_DeriveAddressIgnoresMarkerAndPrefix :
    ∃ t, 65 ≤ (withArgument key).ilen ∧
      (∀ i, i < 64 → memRead (withArgument key).argument ((withArgument key).ilen - 64 + i) =
        memRead (withArgument ([0xde, 0xad] ++ key)).argument ((withArgument ([0xde, 0xad] ++ key)).ilen - 64 + i)) ∧
      exec .deriveAddress (withArgument key) = .next t ∧
      ∃ t', exec .deriveAddress (withArgument ([0xde, 0xad] ++ key)) = .next t' := by
  obtain ⟨t, h, -⟩ := next_derive
  have h' := execDeriveAddress_held (m := key.drop 1) (ready_withArgument ([0xde, 0xad] ++ key)) (by decide) (by decide +kernel)
  exact ⟨t, by decide, by decide +kernel, h, _, h'⟩

/-- 40 good characters; 40 characters with an upper-case letter; 39 characters. -/
theorem witness_ChecksumRecasesAddressText :
    ((withArgument addressText).ready ∧ (withArgument addressText).ilen = 40 ∧ addressText.length = 40 ∧
        (withArgument addressText).holdsBytes 0 addressText ∧
        ∀ c ∈ addressText, (0x30 ≤ c ∧ c ≤ 0x39) ∨ (0x61 ≤ c ∧ c ≤ 0x66)) ∧
      ((withArgument mixedText).ready ∧ (withArgument mixedText).ilen = 40 ∧ (withArgument mixedText).holdsBytes 0 mixedText ∧
        ∃ c ∈ mixedText, ¬ ((0x30 ≤ c ∧ c ≤ 0x39) ∨ (0x61 ≤ c ∧ c ≤ 0x66))) ∧
      ((withArgument (addressText.drop 1)).ready ∧ (withArgument (addressText.drop 1)).ilen ≠ 40) :=
  ⟨⟨ready_withArgument _, by decide, by decide, holds_addressText, by decide +kernel⟩,
    ⟨ready_withArgument _, by decide, holds_mixedText, by decide +kernel⟩, ⟨ready_withArgument _, by decide⟩⟩

/-- A successful CHECKSUM, and its output lower-cased as the argument of another state: of ChecksumChangesOnlyLetterCase
and ChecksumIsIdempotent. -/
theorem witness_ChecksumIsIdempotent :
    ∃ t, exec .checksum (withArgument addressText) = .next t ∧ t.ovalid = true ∧
      (withArgument addressText).ready ∧ (withArgument addressText).ilen = 40 ∧
      (withArgument addressText).holdsBytes 0 ((List.range 40).map fun i => lowerCase (t.outByte i)) ∧
      memRead (withArgument addressText).argument 39 = some 0x66 := by
  obtain ⟨t, h, ht⟩ := next_of_nextIs test_checksum_cs1
  simp only [Bool.and_eq_true, decide_eq_true_eq] at ht
  have hout : ((List.range 40).map fun i => lowerCase (t.outByte i)) = addressText := by
    rw [show ((List.range 40).map fun i => lowerCase (t.outByte i)) = ((List.range 40).map t.outByte).map lowerCase by simp, ht.1.1]
    decide
  exact ⟨t, h, ht.1.2, ready_withArgument _, by decide, by rw [hout]; exact holds_addressText, by decide +kernel⟩

theorem witness_HexTextOfAddressIsAccepted : (key.drop 45).length = 20 := by decide

theorem witness_KeyLengthErrorExactlyBelowSixtyFive :
    ((withArgument (key.drop 1)).ready ∧ (withArgument (key.drop 1)).ilen = 64) ∧
      (∃ t, exec .deriveAddress (withArgument (key.drop 1)) = .next t ∧ t.err = .invalidPublicKeyLength) ∧
      ∃ t, exec .deriveAddress (withArgument key) = .next t ∧ t.err = .none :=
  ⟨⟨ready_withArgument _, by decide⟩, ⟨_, rfl, rfl⟩, next_derive⟩

/-- The address text with its first, second or last character replaced by 'G'. -/
def textBadAt (k : Nat) : List Byte := addressText.set k 0x47

/-- An error by length; and an error at the first, the second and the last character, every one before it an address character. -/
theorem witness_AddressFormatErrorExactlyWhenInvalid :
    (∃ t, exec .checksum (withArgument []) = .next t ∧ t.err = .invalidAddressFormat) ∧
      ((withArgument []).ready ∧ (withArgument []).ilen ≠ 40) ∧
      ¬ ((0x30 ≤ (0x47 : Byte) ∧ (0x47 : Byte) ≤ 0x39) ∨ (0x61 ≤ (0x47 : Byte) ∧ (0x47 : Byte) ≤ 0x66)) ∧
      ∀ k ∈ [0, 1, 39], (withArgument (textBadAt k)).ready ∧ (withArgument (textBadAt k)).ilen = 40 ∧ k < 40 ∧
        memRead (withArgument (textBadAt k)).argument k = some 0x47 ∧
        ∀ i, i < k → ∃ e, memRead (withArgument (textBadAt k)).argument i = some e ∧
          ((0x30 ≤ e ∧ e ≤ 0x39) ∨ (0x61 ≤ e ∧ e ≤ 0x66)) := by
  refine ⟨⟨_, rfl, rfl⟩, ⟨ready_withArgument _, by decide⟩, by decide, fun k hk => ⟨ready_withArgument _, ?_⟩⟩
  have hscan : ∀ k ∈ [0, 1, 39], (withArgument (textBadAt k)).ilen = 40 ∧ k < 40 ∧
      memRead (withArgument (textBadAt k)).argument k = some 0x47 ∧
      scanText (withArgument (textBadAt k)).argument 0 k = some true := by decide +kernel
  obtain ⟨hlen, hlt, hbad, hgood⟩ := hscan k hk
  refine ⟨hlen, hlt, hbad, fun i hi => ?_⟩
  obtain ⟨e, he, hok⟩ := scanText_eq_true.1 hgood i hi
  exact ⟨e, by simpa using he, by simpa [isAddressChar, isDigit, isLowerAF] using hok⟩

/-- A valid text, the empty one, and texts that are bad at the first and at the last character. -/
theorem witness_ChecksumRaisesAddressFormatErrorExactlyForInvalidText :
    ∀ m ∈ [addressText, [], textBadAt 0, textBadAt 39],
      (withArgument m).ready ∧ m.length = (withArgument m).ilen ∧ (withArgument m).holdsBytes 0 m := by
  have hread : ∀ m ∈ [addressText, [], textBadAt 0, textBadAt 39],
      m.length = (withArgument m).ilen ∧ readBytes (withArgument m).argument 0 m.length = some m := by decide +kernel
  exact fun m hm => ⟨ready_withArgument _, (hread m hm).1, (readBytes_eq_some.1 (hread m hm).2).2⟩

theorem witness_ErrorWritesOnlyStatus :
    ∃ t, Instr.unitLevel .checksum = false ∧ exec .checksum (withArgument []) = .next t ∧ t.err ≠ .none :=
  ⟨_, rfl, rfl, by decide⟩

theorem witness_ErrHoldsKindOfLastHostLevelOperation :
    (∃ t, Instr.unitLevel .spInit = true ∧ exec .spInit State.reset = .next t) ∧
      (∃ t, exec .hash (withArgument []) = .next t) ∧ (∃ t, exec .deriveAddress (withArgument []) = .next t) ∧
      ∃ t, exec .checksum (withArgument []) = .next t :=
  ⟨⟨_, rfl, rfl⟩, ⟨_, rfl⟩, ⟨_, rfl⟩, ⟨_, rfl⟩⟩

theorem witness_OvalidTellsSuccess :
    State.reset.ovalid = false ∧ ({ State.reset with host := [.readOlen] } : State).host = .readOlen :: [] ∧
      ({ State.reset with host := [.readOut 39] } : State).host = .readOut 39 :: [] ∧ 39 < 40 := by decide

theorem witness_InputAboveBoundIsRefused :
    Instr.unitLevel .checksum = false ∧ ({ withArgument [0] with maxInput := some 0 } : State).ilenHeld = true ∧
      ({ withArgument [0] with maxInput := some 0 } : State).maxInput = some 0 ∧
      0 < ({ withArgument [0] with maxInput := some 0 } : State).ilen := by decide

/-- ILEN unwritten; the last byte of a HASH argument unwritten; the first of the last 64 unwritten; character 0 unwritten. -/
theorem witness_UnwrittenArgumentIsFault :
    (Instr.unitLevel .hash = false ∧ State.reset.ilenHeld = false) ∧
      (({ withArgument [] with ilen := 1 } : State).ready ∧ memRead (withArgument []).argument 0 = none) ∧
      (({ withArgument [] with ilen := 65 } : State).ready ∧ memRead (withArgument []).argument 1 = none) ∧
      ({ withArgument [] with ilen := 40 } : State).ready :=
  ⟨by decide, ⟨⟨rfl, fun _ h => by simp [withArgument, State.reset] at h⟩, rfl⟩,
    ⟨⟨rfl, fun _ h => by simp [withArgument, State.reset] at h⟩, rfl⟩, rfl, fun _ h => by simp [withArgument, State.reset] at h⟩

/-- Two states that agree on a one-byte argument and differ beyond it and in A, POS, PHASE. -/
theorem witness_HostLevelResultDependsOnArgumentOnly :
    ∃ (s s' t : State), s.ilenHeld = s'.ilenHeld ∧ s.ilen = s'.ilen ∧ s.maxInput = s'.maxInput ∧
      (∀ a, a < s.ilen → memRead s.argument a = memRead s'.argument a) ∧ s ≠ s' ∧ exec .hash s = .next t := by
  have h := execHash_held (m := [0x61]) (ready_withArgument [0x61]) rfl
  exact ⟨withArgument [0x61],
    { withArgument [0x61] with argument := [(0, 0x61), (1, 0x62)], lanes := countLanes, lanesHeld := true, phase := .absorb }, _,
    rfl, rfl, rfl, by decide, by decide, h⟩

/-- A unit-level operation that completes, one that faults, one that is refused. -/
theorem witness_UnitLevelIgnoresArgument :
    (∃ t, Instr.unitLevel .pi = true ∧ exec .pi (withLanes countLanes) = .next t) ∧
      exec .pi State.reset = .fault .laneFileHoldsNoValue ∧ exec .spPad State.reset = .refused .spongeOrder :=
  ⟨⟨_, rfl, rfl⟩, rfl, rfl⟩

theorem witness_EngineOperationsFrame :
    (∃ t, Instr.engine .permute = true ∧ exec .permute (withLanes countLanes) = .next t) ∧
      ∃ t, exec (.iota 23) (withLanes countLanes) = .next t := ⟨⟨_, rfl, rfl⟩, ⟨_, rfl⟩⟩

theorem witness_SpongeOperationsFrame :
    (∃ t, exec .spInit State.reset = .next t) ∧ (∃ t, exec (.spAbsorb 0xFF) (absorbing countLanes 135) = .next t) ∧
      (∃ t, exec .spPad (absorbing countLanes 135) = .next t) ∧
      ∃ t, exec .spSqueeze { withLanes countLanes with phase := .final } = .next t :=
  ⟨⟨_, rfl⟩, ⟨_, rfl⟩, ⟨_, rfl⟩, ⟨_, rfl⟩⟩

theorem witness_HostLevelOperationsFrame :
    (∃ t, Instr.unitLevel .hash = false ∧ exec .hash (withArgument []) = .next t) ∧
      ∃ t, exec .deriveAddress (withArgument key) = .next t :=
  ⟨⟨_, rfl, rfl⟩, next_derive.imp fun _ h => h.1⟩

theorem witness_HostWritesOneArgumentByte :
    ({ State.reset with host := [.writeIn 0 7] } : State).host = .writeIn 0 7 :: [] ∧ (1 : Nat) ≠ 0 ∧ State.reset.argument.wf := by decide

theorem witness_HostWritesLength : ({ State.reset with host := [.writeIlen 0] } : State).host = .writeIlen 0 :: [] := rfl

theorem witness_StatusReadsPackedFields : ({ State.reset with host := [.readStatus] } : State).host = .readStatus :: [] := rfl

/-- The last result byte, the first byte beyond OLEN, the first address that does not exist, and OLEN with and without a result. -/
theorem witness_ResultReadsFollowOvalidAndOlen :
    ({ State.reset with host := [.readOut 31], ovalid := true, olen := 32 } : State).host = .readOut 31 :: [] ∧
      ({ State.reset with host := [.readOut 32], ovalid := true, olen := 32 } : State).host = .readOut 32 :: [] ∧
      ({ State.reset with host := [.readOut 40] } : State).host = .readOut 40 :: [] ∧
      ({ State.reset with host := [.readOlen], ovalid := true, olen := 40 } : State).host = .readOlen :: [] ∧
      ({ State.reset with host := [.readOlen] } : State).ovalid = false := by decide

theorem witness_ResetEventGivesResetState : ({ absorbing countLanes 9 with host := [.reset] } : State).host = .reset :: [] := rfl

/-- An operation of each kind that AfterResetOnlySpInitRuns names. -/
theorem witness_AfterResetOnlySpInitRuns :
    (Instr.round 23).wellFormed = true ∧ Instr.engine (.round 23) = true ∧ Instr.unitLevel .hash = false ∧
      Instr.unitLevel .spPad = true ∧ Instr.engine .spPad = false ∧ Instr.spPad ≠ .spInit := by decide

theorem witness_IdleHostHoldsState : State.reset.host = [] := rfl

theorem witness_StepKeepsInvariant :
    ∃ s t : State, s.Inv ∧ s.lanesHeld = true ∧ s.phase = .absorb ∧ s.pos.toNat = 135 ∧ step s = .next t :=
  ⟨{ absorbing countLanes 135 with host := [.issue 0xFF11] }, _,
    ⟨by decide, by decide, by decide, by decide, by decide, by decide, by decide⟩, rfl, rfl, rfl, rfl⟩

end Sys2Proof.Tests
end

section
/-! The scope of the block (R6, R7): what a step does with the host's next action, and when a host-level operation refuses its argument. -/

namespace Sys2Proof.Machine

variable {s : State} {w : CommandWord} {i : Instr} {act : HostAction} {rest : List HostAction}

/-- The host's next action is all that a step does (R7, R164). -/
theorem step_of_host_cons (h : s.host = act :: rest) : step s = perform act (s.putHost rest) := by
  rw [step, hostStep, h]

theorem issueWord_of_decode_ok (h : decode w = .ok i) : issueWord w s = exec i s := by
  rw [issueWord, h]

/-- Every operation that is not unit-level starts through `hostLevel`, whatever it does after that. -/
theorem exec_eq_hostLevel (h : i.unitLevel = false) : ∃ body, ∀ s, exec i s = hostLevel body s := by
  match i, h with
  | .hash, _ => exact ⟨hashBody, fun _ => rfl⟩
  | .deriveAddress, _ => exact ⟨deriveAddressBody, fun _ => rfl⟩
  | .checksum, _ => exact ⟨checksumBody, fun _ => rfl⟩

theorem withinBound_eq_false {bound : Nat} (hb : s.maxInput = some bound) (hlt : bound < s.ilen) :
    s.withinBound = false :=
  Bool.eq_false_iff.2 fun h => absurd (withinBound_eq_true.1 h bound hb) (by omega)

/-- A written ILEN above the bound is refused before the work of the operation begins (R159 X4). -/
theorem hostLevel_tooLong {body : State → Result} {bound : Nat} (hi : s.ilenHeld = true) (hb : s.maxInput = some bound)
    (hlt : bound < s.ilen) : hostLevel body s = .refused .inputTooLong := by
  simp [hostLevel, hi, withinBound_eq_false hb hlt]

/-- Settles O1: a step performs the host's next action, and issuing a word that decodes is `exec` of its operation. -/
theorem stepRunsIssuedInstruction : Obligations.StepRunsIssuedInstruction := by
  intro s w i rest hhost hdecode
  calc step s = issueWord w (s.putHost rest) := step_of_host_cons hhost
    _ = exec i (s.putHost rest) := issueWord_of_decode_ok hdecode

/-- Settles O38: the three host-level operations share the check of ILEN with which `hostLevel` begins. -/
theorem inputAboveBoundIsRefused : Obligations.InputAboveBoundIsRefused := by
  intro i s bound hlevel hi hb hlt
  obtain ⟨body, hexec⟩ := exec_eq_hostLevel hlevel
  rw [hexec, hostLevel_tooLong hi hb hlt]

end Sys2Proof.Machine
end

section
/-! Reasoning rules for the operations on the state: what each shared operation answers where an item holds no value,
the shape of `exec` for each kind of operation, and what a hash leaves that depends on its message alone. -/

namespace Sys2Proof.Machine

variable {s t : State} {i : Instr}

/-! The shared operations where an item holds no value (R36). -/

theorem onLanes_noLanes {f : Lanes → Lanes} (h : s.lanesHeld = false) : onLanes f s = .fault .laneFileHoldsNoValue := by
  simp [onLanes, h]

theorem inPhase_noLanes {p : Phase} {g : State → State} (hp : s.phase = p) (h : s.lanesHeld = false) :
    inPhase p g s = .fault .laneFileHoldsNoValue := by
  simp [inPhase, hp, h]

theorem hostLevel_ilenUnwritten {body : State → Result} (h : s.ilenHeld = false) :
    hostLevel body s = .fault .argumentHoldsNoValue := by
  simp [hostLevel, h]

theorem withArgument_unwritten {start n : Nat} {k : List Byte → State → Result}
    (h : readBytes s.argument start n = none) : withArgument start n k s = .fault .argumentHoldsNoValue := by
  simp [withArgument, h]

theorem readBytes_eq_none {m : Memory} {start n k : Nat} (hk : k < n) (hnone : memRead m (start + k) = none) :
    readBytes m start n = none := by
  refine Option.eq_none_iff_forall_ne_some.2 fun bs hbs => ?_
  obtain ⟨hlen, hbytes⟩ := readBytes_eq_some.1 hbs
  have hge : bs.length ≤ k := List.getElem?_eq_none_iff.1 ((hbytes k hk).symm.trans hnone)
  omega

/-- The scan stops at the first byte nobody wrote, when every byte before it is an address character (R36, R141). -/
theorem scanText_eq_none {m : Memory} {start n k : Nat} (hk : k < n) (hnone : memRead m (start + k) = none)
    (hgood : ∀ j, j < k → ∃ c, memRead m (start + j) = some c ∧ isAddressChar c = true) : scanText m start n = none := by
  match hscan : scanText m start n with
  | none => rfl
  | some true =>
    obtain ⟨c, hc, -⟩ := scanText_eq_true.1 hscan k hk
    simp [hnone] at hc
  | some false =>
    obtain ⟨j, -, ⟨c, hc, hbad⟩, hbefore⟩ := scanText_eq_false.1 hscan
    obtain hlt | rfl | hgt := Nat.lt_trichotomy j k
    · obtain ⟨d, hd, hok⟩ := hgood j hlt
      obtain rfl := Option.some.inj (hc.symm.trans hd)
      exact absurd hok (Bool.eq_false_iff.1 hbad)
    · simp [hnone] at hc
    · obtain ⟨d, hd, -⟩ := hbefore k hgt
      simp [hnone] at hd

/-! The shape of `exec` for each kind of operation. -/

/-- A Permutation Engine operation with a legal operand is one function on the lane file (R80). -/
theorem exec_engine (he : i.engine = true) (hw : i.wellFormed = true) : ∃ f, ∀ s, exec i s = onLanes f s := by
  match i, he with
  | .theta, _ => exact ⟨theta, fun _ => rfl⟩
  | .rho, _ => exact ⟨rho, fun _ => rfl⟩
  | .pi, _ => exact ⟨piMove, fun _ => rfl⟩
  | .chi, _ => exact ⟨chi, fun _ => rfl⟩
  | .iota r, _ => exact ⟨iota r.toNat, fun _ => if_pos hw⟩
  | .round r, _ => exact ⟨keccakRound r.toNat, fun _ => if_pos hw⟩
  | .permute, _ => exact ⟨permute, fun _ => rfl⟩

/-- Only IOTA and ROUND can be ill formed, by their index, and are then refused (R64). -/
theorem exec_illFormed (hw : i.wellFormed = false) (s : State) :
    exec i s = .refused (.reservedWord .roundIndexReserved) := by
  match i, hw with
  | .iota r, hw => exact if_neg (Bool.eq_false_iff.1 hw)
  | .round r, hw => exact if_neg (Bool.eq_false_iff.1 hw)

theorem wellFormed_of_next (h : exec i s = .next t) : i.wellFormed = true := by
  refine Bool.eq_true_of_not_eq_false fun hw => ?_
  rw [exec_illFormed hw] at h
  cases h

/-- A Permutation Engine operation answers only by writing the lanes (R80). -/
theorem exec_engine_next (he : i.engine = true) (h : exec i s = .next t) : ∃ a, t = s.putLanes a := by
  obtain ⟨f, hf⟩ := exec_engine he (wellFormed_of_next h)
  rw [hf] at h
  exact ⟨_, (onLanes_next h).2⟩

theorem exec_iota_next {r : RoundIndex} (h : exec (.iota r) s = .next t) : t = s.putLanes (iota r.toNat s.lanes) := by
  have hexec : exec (.iota r) s = onLanes (iota r.toNat) s := if_pos (wellFormed_of_next h)
  exact (onLanes_next (hexec ▸ h)).2

theorem exec_spInit_next (h : exec .spInit s = .next t) : t = spongeInit s := (Host.Outcome.next.inj h).symm

theorem exec_spAbsorb_next {b : Byte} (h : exec (.spAbsorb b) s = .next t) :
    s.phase = .absorb ∧ s.lanesHeld = true ∧ t = spongeAbsorb b s := inPhase_next h

theorem exec_spPad_next (h : exec .spPad s = .next t) :
    s.phase = .absorb ∧ s.lanesHeld = true ∧ t = spongePad s := inPhase_next h

theorem exec_spSqueeze_next (h : exec .spSqueeze s = .next t) :
    s.phase = .final ∧ s.lanesHeld = true ∧ t = spongeSqueeze s := inPhase_next h

/-- The unit-level operations outside the Permutation Engine are the four of the Sponge Processor (R5). -/
theorem sponge_of_unitLevel (hu : i.unitLevel = true) (he : i.engine = false) :
    i = .spInit ∨ (∃ b, i = .spAbsorb b) ∨ i = .spPad ∨ i = .spSqueeze := by
  match i, hu, he with
  | .spInit, _, _ => exact .inl rfl
  | .spAbsorb b, _, _ => exact .inr (.inl ⟨b, rfl⟩)
  | .spPad, _, _ => exact .inr (.inr (.inl rfl))
  | .spSqueeze, _, _ => exact .inr (.inr (.inr rfl))

theorem unitLevel_of_engine (he : i.engine = true) : i.unitLevel = true := by
  match i, he with
  | .theta, _ | .rho, _ | .pi, _ | .chi, _ | .iota _, _ | .round _, _ | .permute, _ => rfl

/-! What each host-level operation answers when it ends in its error (R151, R152, R156). -/

theorem execDeriveAddress_short (hr : s.ready) (hlen : s.ilen < 65) :
    execDeriveAddress s = .next (s.clearStatus.raiseError .invalidPublicKeyLength) := by
  rw [execDeriveAddress, hostLevel_ready hr, deriveAddressBody, if_pos (by exact hlen), raise]

theorem execChecksum_invalid (hr : s.ready) (h : s.ilen ≠ 40 ∨ scanText s.argument 0 40 = some false) :
    execChecksum s = .next (s.clearStatus.raiseError .invalidAddressFormat) := by
  rw [execChecksum, hostLevel_ready hr, checksumBody]
  by_cases hlen : s.ilen = 40
  · have hscan := h.resolve_left (not_not_intro hlen)
    rw [if_pos (by exact hlen)]
    simp only [State.clearStatus_argument, Config.addrChars, hscan, raise]
  · rw [if_neg (by exact hlen), raise]

/-! What each host-level operation answers where a byte it reads is unwritten (R36). -/

theorem execHash_unwritten (hr : s.ready) (h : readBytes s.argument 0 s.ilen = none) :
    execHash s = .fault .argumentHoldsNoValue := by
  rw [execHash, hostLevel_ready hr, hashBody, withArgument_unwritten (by exact h)]

theorem execDeriveAddress_unwritten (hr : s.ready) (hlen : 65 ≤ s.ilen)
    (h : readBytes s.argument (s.ilen - 64) 64 = none) : execDeriveAddress s = .fault .argumentHoldsNoValue := by
  have hstart : s.ilen - 64 = s.clearStatus.ilen - Config.keyTail + 1 := by
    simp only [State.clearStatus_ilen, Config.keyTail]
    omega
  rw [execDeriveAddress, hostLevel_ready hr, deriveAddressBody, if_neg (by exact Nat.not_lt.2 hlen),
    withArgument_unwritten (by rw [← hstart]; exact h)]

theorem execChecksum_unwritten (hr : s.ready) (hlen : s.ilen = 40) (h : scanText s.argument 0 40 = none) :
    execChecksum s = .fault .argumentHoldsNoValue := by
  rw [execChecksum, hostLevel_ready hr, checksumBody, if_pos (by exact hlen)]
  simp only [State.clearStatus_argument, Config.addrChars, h]

/-! The host's port (R31, R40, R64, R159 X5). -/

/-- A word runs an operation or, reserved, answers no state (R64). -/
theorem issueWord_next {w : CommandWord} (h : issueWord w s = .next t) : ∃ i, decode w = .ok i ∧ exec i s = .next t := by
  cases hw : decode w with
  | ok i => exact ⟨i, rfl, issueWord_of_decode_ok hw ▸ h⟩
  | error why => simp [issueWord, hw] at h

/-- What a read of `OUT` answers, by address (R31, R40, R159 X5). -/
theorem readOut_eq (a : Nat) (s : State) :
    readOut a s =
      if 40 ≤ a then .fault .outAddressAbsent
      else if s.ovalid = true ∧ a < s.olen.toNat then .next (s.putReply (s.outByte a))
      else .fault .resultHoldsNoValue := by
  by_cases ha : a < 40
  · simp [readOut, ha, State.outByte, show ¬ 40 ≤ a by omega]
  · simp [readOut, ha, show 40 ≤ a by omega]

theorem readOut_next {a : Nat} (h : readOut a s = .next t) : t = s.putReply (s.outByte a) := by
  rw [readOut_eq] at h
  split at h
  · cases h
  · split at h
    · exact (Host.Outcome.next.inj h).symm
    · cases h

theorem readOlen_held (h : s.ovalid = true) : readOlen s = .next (s.putReply (s.olen.setWidth 8)) := if_pos h

theorem readOlen_noValue (h : s.ovalid = false) : readOlen s = .fault .resultHoldsNoValue := by
  rw [readOlen, if_neg (Bool.eq_false_iff.1 h)]

/-! The results have the lengths of R31; that of HASH is the digest itself. -/

theorem addressOf_length (d : Digest) : (addressOf d.toList).length = 20 := by simp [addressOf]

theorem recaseText_length (text dg : List Byte) : (recaseText text dg).length = 40 := by simp [recaseText]

/-- A host-level operation that answers ends in an error, or in the delivery of a result of 20, 32 or 40 bytes after a
hash of some message. -/
theorem exec_hostLevel_next (hl : i.unitLevel = false) (h : exec i s = .next t) :
    (∃ e, e ≠ .none ∧ t = s.clearStatus.raiseError e) ∨
      ∃ m r, (r.length = 20 ∨ r.length = 32 ∨ r.length = 40) ∧ t = (hashBytes m s.clearStatus).deliver r := by
  match i, hl with
  | .hash, _ =>
    obtain ⟨-, m, -, ht⟩ := execHash_next h
    exact .inr ⟨m, _, .inr (.inl Vector.length_toList), ht⟩
  | .deriveAddress, _ =>
    obtain ⟨-, ⟨-, ht⟩ | ⟨-, m, -, ht⟩⟩ := execDeriveAddress_next h
    · exact .inl ⟨_, by decide, ht⟩
    · exact .inr ⟨m, _, .inl (addressOf_length _), ht⟩
  | .checksum, _ =>
    obtain ⟨-, ⟨-, ht⟩ | ⟨-, -, m, -, ht⟩⟩ := execChecksum_next h
    · exact .inl ⟨_, by decide, ht⟩
    · exact .inr ⟨m, _, .inr (.inr (recaseText_length _ _)), ht⟩

/-! What a hash leaves is a function of its message (R35, R105). -/

theorem hashBytes_lanes (m : List Byte) (s : State) :
    (hashBytes m s).lanes =
      permute (padLanes (absorbBytes m (Vector.replicate 25 0) 0).1 (absorbBytes m (Vector.replicate 25 0) 0).2) := by
  obtain ⟨hlanes, hpos⟩ := foldl_spongeAbsorb_eq m (spongeInit s) (by simp)
  rw [hashBytes, spongeSqueeze_lanes, spongePad_lanes, hlanes, hpos]
  rfl

theorem hashBytes_digest (m : List Byte) (s : State) : (hashBytes m s).digest = keccak256 m := by
  have hdigest : (hashBytes m s).digest = digestOf (hashBytes m s).lanes := by
    rw [hashBytes, spongeSqueeze_digest, spongeSqueeze_lanes]
  rw [hdigest, hashBytes_lanes, keccak256]

/-- The result bytes of `OUT` are the result, the others as they were (R31). -/
theorem outByte_deliver (r : List Byte) {j : Nat} (hj : j < 40) : (s.deliver r).outByte j = r.getD j (s.outByte j) :=
  overwrite_getD s.out r hj

theorem outByte_deliver_of_lt {r : List Byte} {j : Nat} (hj : j < 40) (hr : j < r.length) :
    (s.deliver r).outByte j = r[j] := by
  rw [outByte_deliver r hj, List.getD_eq_getElem r _ hr]

theorem outByte_deliver_of_ge {r : List Byte} {j : Nat} (hj : j < 40) (hr : r.length ≤ j) :
    (s.deliver r).outByte j = s.outByte j := by
  rw [outByte_deliver r hj, List.getD_eq_default _ _ hr]

@[simp] theorem outByte_hashBytes (m : List Byte) (s : State) (j : Nat) : (hashBytes m s).outByte j = s.outByte j := by
  rw [State.outByte, hashBytes_out, State.outByte]

end Sys2Proof.Machine
end

section
/-! Unit-level operations and what belongs to the host-level ones (R27, R28, R53): they neither read nor write the argument, the result,
`ERR` and `OVALID`. That they leave these items follows from their not depending on them. -/

namespace Sys2Proof.Machine

/-- The items of the state that only the host and the host-level operations read or write (R53). -/
structure HostItems where
  argument : Memory
  ilen : Nat
  ilenHeld : Bool
  err : ErrCode
  ovalid : Bool
  out : OutBuffer
  olen : BitVec 6

def State.hostItems (s : State) : HostItems := ⟨s.argument, s.ilen, s.ilenHeld, s.err, s.ovalid, s.out, s.olen⟩

def State.putHostItems (s : State) (x : HostItems) : State :=
  { s with argument := x.argument, ilen := x.ilen, ilenHeld := x.ilenHeld, err := x.err, ovalid := x.ovalid,
           out := x.out, olen := x.olen }

variable {s t : State} {i : Instr} {x : HostItems}

@[simp] theorem State.putHostItems_hostItems : s.putHostItems s.hostItems = s := rfl
@[simp] theorem State.hostItems_putHostItems : (s.putHostItems x).hostItems = x := rfl

/-- The outcome with `f` applied to its next state, where it has one. -/
def onNext (f : State → State) : Result → Result
  | .next t => .next (f t)
  | .fault r => .fault r
  | .refused r => .refused r

/-- The operation answers the same whatever the host items are, and passes them on. -/
def IgnoresHostItems (op : State → Result) : Prop :=
  ∀ (s : State) (x : HostItems), op (s.putHostItems x) = onNext (fun t => t.putHostItems x) (op s)

theorem onLanes_ignores (f : Lanes → Lanes) : IgnoresHostItems (onLanes f) := by
  intro s x
  cases h : s.lanesHeld with
  | true => rw [onLanes_held h, onLanes_held (by exact h)]; rfl
  | false => rw [onLanes_noLanes h, onLanes_noLanes (by exact h)]; rfl

theorem inPhase_ignores (p : Phase) {g : State → State} (hg : ∀ s x, g (State.putHostItems s x) = (g s).putHostItems x) :
    IgnoresHostItems (inPhase p g) := by
  intro s x
  by_cases hp : s.phase = p
  · cases h : s.lanesHeld with
    | true => rw [inPhase_legal hp h, inPhase_legal (by exact hp) (by exact h), hg]; rfl
    | false => rw [inPhase_noLanes hp h, inPhase_noLanes (by exact hp) (by exact h)]; rfl
  · rw [inPhase_refused hp, inPhase_refused (by exact hp)]; rfl

theorem spongeAbsorb_putHostItems (b : Byte) (s : State) (x : HostItems) :
    spongeAbsorb b (s.putHostItems x) = (spongeAbsorb b s).putHostItems x := by
  have hpos : (s.putHostItems x).pos = s.pos := rfl
  by_cases hfull : (s.pos + 1).toNat = Config.rate
  · rw [spongeAbsorb, spongeAbsorb, if_pos hfull, hpos, if_pos hfull]; rfl
  · rw [spongeAbsorb, spongeAbsorb, if_neg hfull, hpos, if_neg hfull]; rfl

theorem exec_unitLevel_ignores (hu : i.unitLevel = true) : IgnoresHostItems (exec i) := by
  cases he : i.engine with
  | true =>
    cases hw : i.wellFormed with
    | true =>
      obtain ⟨f, hf⟩ := exec_engine he hw
      rw [funext hf]
      exact onLanes_ignores f
    | false =>
      intro s x
      rw [exec_illFormed hw, exec_illFormed hw, onNext]
  | false =>
    obtain rfl | ⟨b, rfl⟩ | rfl | rfl := sponge_of_unitLevel hu he
    · exact fun s x => rfl
    · exact inPhase_ignores .absorb (spongeAbsorb_putHostItems b)
    · exact inPhase_ignores .absorb fun _ _ => rfl
    · exact inPhase_ignores .final fun _ _ => rfl

/-- Given a state's own host items, the operation must hand those very items on. -/
theorem exec_unitLevel_hostItems (hu : i.unitLevel = true) (h : exec i s = .next t) : t.hostItems = s.hostItems := by
  have hown : exec i s = onNext (fun u => u.putHostItems s.hostItems) (exec i s) := exec_unitLevel_ignores hu s s.hostItems
  rw [h, onNext] at hown
  rw [Host.Outcome.next.inj hown, State.hostItems_putHostItems]

/-- Settles O41: the outcome with other host items is the outcome mapped by setting them. -/
theorem unitLevelIgnoresArgument : Obligations.UnitLevelIgnoresArgument := by
  intro i s m n held valid e o l hu
  have hother := exec_unitLevel_ignores hu s ⟨m, n, held, e, valid, o, l⟩
  refine ⟨fun t h => ?_, fun f h => ?_, fun r h => ?_⟩ <;> (rw [h] at hother; exact hother)

end Sys2Proof.Machine
end

section
/-! The invariant of R38 and R26: every action of the host and every operation keeps it. -/

namespace Sys2Proof.Machine

variable {s t : State} {i : Instr}

/-! The host's own actions. -/

theorem putHost_inv (h : s.Inv) (acts : List HostAction) : (s.putHost acts).Inv := { h with }

theorem putReply_inv (h : s.Inv) (b : Byte) : (s.putReply b).Inv := { h with }

theorem putIlen_inv (h : s.Inv) (n : Nat) : (s.putIlen n).Inv := { h with }

theorem putArgumentByte_inv (h : s.Inv) (a : Nat) (b : Byte) : (s.putArgumentByte a b).Inv :=
  { h with argument_wf := memWrite_wf h.argument_wf a b }

/-- Settles O52: nothing holds a value and PHASE is IDLE, so every clause but the form of `IN` is empty. -/
theorem resetMeetsInvariant : Obligations.ResetMeetsInvariant where
  pos_le := by decide
  phase_held := by decide
  final_pos := by decide
  valid_olen := by decide
  valid_err := by decide
  valid_digest := by decide
  argument_wf := reset_argument_wf

theorem afterReset_inv (s : State) : s.afterReset.Inv := { resetMeetsInvariant with }

/-! The unit-level operations. -/

/-- What the invariant says of `A`, `POS` and `PHASE` (R24, R26). -/
structure SpongeInv (s : State) : Prop where
  pos_le : s.lanesHeld = true → s.pos.toNat ≤ 135
  phase_held : s.phase ≠ .idle → s.lanesHeld = true
  final_pos : s.phase = .final → s.pos = 0

/-- With the host items kept and no digest lost, only the clauses of `A`, `POS` and `PHASE` are at stake. -/
theorem inv_of_hostItems (h : s.Inv) (hitems : t.hostItems = s.hostItems)
    (hdigest : s.digestHeld = true → t.digestHeld = true) (hsponge : SpongeInv t) : t.Inv := by
  have hvalid : t.ovalid = s.ovalid := congrArg HostItems.ovalid hitems
  have holen : t.olen = s.olen := congrArg HostItems.olen hitems
  have herr : t.err = s.err := congrArg HostItems.err hitems
  have harg : t.argument = s.argument := congrArg HostItems.argument hitems
  exact
    { hsponge with
      valid_olen := fun hv => holen ▸ h.valid_olen (hvalid ▸ hv)
      valid_err := fun hv => herr.trans (h.valid_err (hvalid ▸ hv))
      valid_digest := fun hv => hdigest (h.valid_digest (hvalid ▸ hv))
      argument_wf := harg ▸ h.argument_wf }

theorem spongeInit_spongeInv (s : State) : SpongeInv (spongeInit s) where
  pos_le := by simp
  phase_held := by simp
  final_pos := by simp

theorem spongeAbsorb_spongeInv (b : Byte) (h : s.Inv) (hp : s.phase = .absorb) (hl : s.lanesHeld = true) :
    SpongeInv (spongeAbsorb b s) where
  pos_le _ := spongeAbsorb_pos_le b (h.pos_le hl)
  phase_held _ := by rw [spongeAbsorb_lanesHeld, hl]
  final_pos hf := by simp [hp] at hf

theorem spongePad_spongeInv (hl : s.lanesHeld = true) : SpongeInv (spongePad s) where
  pos_le := by simp
  phase_held _ := by rw [spongePad_lanesHeld, hl]
  final_pos := by simp

theorem spongeSqueeze_spongeInv (h : s.Inv) : SpongeInv (spongeSqueeze s) where
  pos_le := by simpa using h.pos_le
  phase_held := by simp
  final_pos := by simp

theorem spongeAbsorb_digestHeld (b : Byte) (s : State) : (spongeAbsorb b s).digestHeld = s.digestHeld := by
  obtain ⟨-, -, -, hdigest, -⟩ := spongeAbsorb_beside b s
  exact hdigest

theorem putLanes_inv (h : s.Inv) (a : Lanes) : (s.putLanes a).Inv := { h with }

theorem exec_unitLevel_inv (h : s.Inv) (hu : i.unitLevel = true) (hx : exec i s = .next t) : t.Inv := by
  cases he : i.engine with
  | true =>
    obtain ⟨a, rfl⟩ := exec_engine_next he hx
    exact putLanes_inv h a
  | false =>
    have hitems := exec_unitLevel_hostItems hu hx
    obtain rfl | ⟨b, rfl⟩ | rfl | rfl := sponge_of_unitLevel hu he
    · obtain rfl := exec_spInit_next hx
      exact inv_of_hostItems h hitems id (spongeInit_spongeInv s)
    · obtain ⟨hp, hl, rfl⟩ := exec_spAbsorb_next hx
      exact inv_of_hostItems h hitems (spongeAbsorb_digestHeld b s).trans (spongeAbsorb_spongeInv b h hp hl)
    · obtain ⟨-, hl, rfl⟩ := exec_spPad_next hx
      exact inv_of_hostItems h hitems id (spongePad_spongeInv hl)
    · obtain ⟨-, -, rfl⟩ := exec_spSqueeze_next hx
      exact inv_of_hostItems h hitems (fun _ => spongeSqueeze_digestHeld s) (spongeSqueeze_spongeInv h)

/-! The host-level operations. -/

/-- An error leaves `OVALID` 0 and everything the invariant speaks of as it was (R156). -/
theorem raiseError_inv (h : s.Inv) (e : ErrCode) : (s.clearStatus.raiseError e).Inv :=
  { h with
    valid_olen := by simp
    valid_err := by simp
    valid_digest := by simp }

theorem deliver_inv (h : s.Inv) (m : List Byte) {r : List Byte}
    (hr : r.length = 20 ∨ r.length = 32 ∨ r.length = 40) : ((hashBytes m s.clearStatus).deliver r).Inv where
  pos_le := by simp
  phase_held := by simp
  final_pos := by simp
  valid_olen _ := by
    obtain hr | hr | hr := hr <;> simp [hr]
  valid_err := by simp
  valid_digest := by simp
  argument_wf := by simpa using h.argument_wf

theorem exec_hostLevel_inv (h : s.Inv) (hl : i.unitLevel = false) (hx : exec i s = .next t) : t.Inv := by
  obtain ⟨e, -, rfl⟩ | ⟨m, r, hr, rfl⟩ := exec_hostLevel_next hl hx
  · exact raiseError_inv h e
  · exact deliver_inv h m hr

/-! A step. -/

theorem exec_inv (h : s.Inv) (hx : exec i s = .next t) : t.Inv := by
  cases hu : i.unitLevel with
  | true => exact exec_unitLevel_inv h hu hx
  | false => exact exec_hostLevel_inv h hu hx

theorem perform_inv {act : HostAction} (h : s.Inv) (hx : perform act s = .next t) : t.Inv := by
  match act with
  | .issue w =>
    obtain ⟨i, -, hexec⟩ := issueWord_next hx
    exact exec_inv h hexec
  | .writeIn a b =>
    obtain rfl := Host.Outcome.next.inj hx
    exact putArgumentByte_inv h a b
  | .writeIlen n =>
    obtain rfl := Host.Outcome.next.inj hx
    exact putIlen_inv h n
  | .readStatus =>
    obtain rfl := Host.Outcome.next.inj hx
    exact putReply_inv h _
  | .readOut a =>
    obtain rfl := readOut_next hx
    exact putReply_inv h _
  | .readOlen =>
    cases hv : s.ovalid with
    | true =>
      obtain rfl := Host.Outcome.next.inj ((readOlen_held hv).symm.trans hx)
      exact putReply_inv h _
    | false => cases (readOlen_noValue hv).symm.trans hx
  | .reset =>
    obtain rfl := Host.Outcome.next.inj hx
    exact afterReset_inv s

/-- Settles O53: taking the action off the list keeps the invariant, and so does performing it. -/
theorem stepKeepsInvariant : Obligations.StepKeepsInvariant := by
  intro s t h hx
  cases hhost : s.host with
  | nil =>
    rw [step, hostStep, hhost] at hx
    exact Host.Outcome.next.inj hx ▸ h
  | cons act rest =>
    rw [step_of_host_cons hhost] at hx
    exact perform_inv (putHost_inv h rest) hx

end Sys2Proof.Machine
end

section
/-! What each operation may change, and the errors and results of the host-level ones (R21, R27, R28, R31, R53). -/

namespace Sys2Proof.Machine

variable {s t : State} {i : Instr}

/-! Frames. -/

theorem onlySpongeChanges_of_beside (h : besideSponge s t) : onlySpongeChanges s t := by
  cases s
  cases t
  simp_all [besideSponge, onlySpongeChanges]

theorem onlyHostLevelChanges_raiseError (s : State) (e : ErrCode) : onlyHostLevelChanges s (s.clearStatus.raiseError e) := rfl

theorem onlyHostLevelChanges_deliver (m r : List Byte) (s : State) :
    onlyHostLevelChanges s ((hashBytes m s.clearStatus).deliver r) := by
  rw [onlyHostLevelChanges, State.deliver]
  simp

theorem onlyHostLevelChanges.argument_eq (h : onlyHostLevelChanges s t) : t.argument = s.argument := by
  rw [onlyHostLevelChanges] at h
  rw [h]

theorem exec_hostLevel_frame (hl : i.unitLevel = false) (h : exec i s = .next t) : onlyHostLevelChanges s t := by
  obtain ⟨e, -, rfl⟩ | ⟨m, r, -, rfl⟩ := exec_hostLevel_next hl h
  · exact onlyHostLevelChanges_raiseError s e
  · exact onlyHostLevelChanges_deliver m r s

theorem exec_unitLevel_argument (hu : i.unitLevel = true) (h : exec i s = .next t) : t.argument = s.argument :=
  congrArg HostItems.argument (exec_unitLevel_hostItems hu h)

/-- Settles O42: an engine operation answers by writing the lanes, IOTA by writing lane 0. -/
theorem engineOperationsFrame : Obligations.EngineOperationsFrame := by
  refine ⟨fun i s t he h => ⟨?_, fun a => ?_⟩, fun r s t h j hj hj25 => ?_⟩
  · obtain ⟨a, rfl⟩ := exec_engine_next he h
    exact rfl
  · rw [exec_unitLevel_argument (unitLevel_of_engine he) h]
  · rw [exec_iota_next h, State.putLanes_lanes, lane_iota _ hj25, if_neg (by omega)]

/-- Settles O43: each sponge operation answers with its effect, whose frame is known. -/
theorem spongeOperationsFrame : Obligations.SpongeOperationsFrame := by
  intro i s t b h
  refine ⟨?_, ?_, ?_⟩
  · rintro (rfl | rfl | rfl)
    · exact exec_spInit_next h ▸ onlySpongeChanges_of_beside (spongeInit_beside s)
    · obtain ⟨-, -, rfl⟩ := exec_spAbsorb_next h
      exact onlySpongeChanges_of_beside (spongeAbsorb_beside b s)
    · obtain ⟨-, -, rfl⟩ := exec_spPad_next h
      exact onlySpongeChanges_of_beside (spongePad_beside s)
  · rintro rfl
    obtain ⟨-, -, rfl⟩ := exec_spSqueeze_next h
    rw [spongeSqueeze, State.putDigest, State.putPhase]
  · intro hsponge a
    have hu : i.unitLevel = true := by
      obtain rfl | rfl | rfl | rfl := hsponge <;> rfl
    rw [exec_unitLevel_argument hu h]

/-- Beyond the length of the result `OUT` is as it was. -/
theorem outByte_hashed_of_ge (m : List Byte) {r : List Byte} {j : Nat} (hj : j < 40) (hr : r.length ≤ j) :
    ((hashBytes m s.clearStatus).deliver r).outByte j = s.outByte j := by
  rw [outByte_deliver_of_ge hj hr, outByte_hashBytes]
  rfl

/-- Settles O44: the result of HASH is 32 bytes and that of DERIVE_ADDRESS 20, and nothing is written above it. -/
theorem hostLevelOperationsFrame : Obligations.HostLevelOperationsFrame := by
  intro i s t hl h
  have hframe := exec_hostLevel_frame hl h
  refine ⟨hframe, fun a => by rw [hframe.argument_eq], ?_, ?_⟩
  · rintro rfl j hj hj40
    obtain ⟨-, m, -, rfl⟩ := execHash_next h
    exact outByte_hashed_of_ge m hj40 (by rw [Vector.length_toList]; exact hj)
  · rintro rfl j hj hj40
    obtain ⟨-, ⟨-, rfl⟩ | ⟨-, m, -, rfl⟩⟩ := execDeriveAddress_next h
    · rfl
    · exact outByte_hashed_of_ge m hj40 (by rw [addressOf_length]; exact hj)

/-! `ERR` and `OVALID`. -/

theorem hashed_err (m r : List Byte) (s : State) : ((hashBytes m s.clearStatus).deliver r).err = .none := by simp

/-- Settles O36: a unit-level operation keeps `ERR` with the other host items; each host-level one has one error of its own. -/
theorem errHoldsKindOfLastHostLevelOperation : Obligations.ErrHoldsKindOfLastHostLevelOperation := by
  refine ⟨fun i s t hu h => congrArg HostItems.err (exec_unitLevel_hostItems hu h), fun s t h => ?_, fun s t h => ?_,
    fun s t h => ?_, rfl, rfl, rfl⟩
  · obtain ⟨-, m, -, rfl⟩ := execHash_next h
    exact hashed_err _ _ s
  · obtain ⟨-, ⟨-, rfl⟩ | ⟨-, m, -, rfl⟩⟩ := execDeriveAddress_next h
    · exact .inr rfl
    · exact .inl (hashed_err _ _ s)
  · obtain ⟨-, ⟨-, rfl⟩ | ⟨-, -, m, -, rfl⟩⟩ := execChecksum_next h
    · exact .inr rfl
    · exact .inl (hashed_err _ _ s)

/-- Settles O37: an error leaves `OVALID` 0 and a result sets it with `ERR` NONE; both host reads look at `OVALID` first. -/
theorem ovalidTellsSuccess : Obligations.OvalidTellsSuccess := by
  refine ⟨fun i s t hl h => ?_, fun i s t hu h => ?_, fun s rest hv => ⟨fun hhost => ?_, fun a ha hhost => ?_⟩⟩
  · obtain ⟨e, he, rfl⟩ | ⟨m, r, -, rfl⟩ := exec_hostLevel_next hl h
    · simp [he]
    · simp
  · have hitems := exec_unitLevel_hostItems hu h
    exact ⟨congrArg HostItems.ovalid hitems, congrArg HostItems.out hitems, congrArg HostItems.olen hitems⟩
  · rw [step_of_host_cons hhost]
    exact readOlen_noValue hv
  · rw [step_of_host_cons hhost, perform, readOut_eq]
    simp [hv, show ¬ 40 ≤ a by omega]

end Sys2Proof.Machine
end

section
/-! Host-level operations and their argument (R35, R36, R181): what is read must be written, and nothing else is read. -/

namespace Sys2Proof.Machine

variable {s s' t : State} {i : Instr}

/-- Settles O39: the read of the unwritten item is the fault, in the order of R120, R130 and R140. -/
theorem unwrittenArgumentIsFault : Obligations.UnwrittenArgumentIsFault := by
  refine ⟨fun i s hl hi => ?_, fun s k hr => ⟨fun hk hnone => ?_, fun hlen hk hnone => ?_, fun hlen hk hnone hgood => ?_⟩⟩
  · obtain ⟨body, hexec⟩ := exec_eq_hostLevel hl
    rw [hexec, hostLevel_ilenUnwritten hi]
  · exact execHash_unwritten hr (readBytes_eq_none hk (by rwa [Nat.zero_add]))
  · exact execDeriveAddress_unwritten hr hlen (readBytes_eq_none hk hnone)
  · exact execChecksum_unwritten hr hlen (scanText_eq_none hk (by rwa [Nat.zero_add]) (by simpa using hgood))

/-- Two states that give a host-level operation the same argument under the same bound. -/
structure SameArgument (s s' : State) : Prop where
  ilenHeld : s.ilenHeld = s'.ilenHeld
  ilen : s.ilen = s'.ilen
  maxInput : s.maxInput = s'.maxInput
  bytes : ∀ a, a < s.ilen → memRead s.argument a = memRead s'.argument a

namespace SameArgument

variable (h : SameArgument s s')
include h

theorem ready (hr : s.ready) : s'.ready := by
  obtain ⟨hheld, hbound⟩ := hr
  exact ⟨h.ilenHeld ▸ hheld, h.ilen ▸ h.maxInput ▸ hbound⟩

theorem readBytes_eq {start n : Nat} (hn : start + n ≤ s.ilen) :
    readBytes s.argument start n = readBytes s'.argument start n :=
  readBytes_congr fun k hk => h.bytes (start + k) (by omega)

theorem scanText_eq {start n : Nat} (hn : start + n ≤ s.ilen) :
    scanText s.argument start n = scanText s'.argument start n :=
  scanText_congr fun k hk => h.bytes (start + k) (by omega)

end SameArgument

/-- `t'` shows the same result as `t`: the same error, and the same bytes, digest and lanes where there is no error. -/
def SameResult (t t' : State) : Prop :=
  t'.err = t.err ∧ t'.ovalid = t.ovalid ∧
    (t.ovalid = true →
      t'.olen = t.olen ∧ t'.digest = t.digest ∧ t'.lanes = t.lanes ∧
      ∀ j, j < t.olen.toNat → t'.outByte j = t.outByte j)

theorem sameResult_raiseError (s s' : State) (e : ErrCode) :
    SameResult (s.clearStatus.raiseError e) (s'.clearStatus.raiseError e) :=
  ⟨rfl, rfl, fun hv => by cases hv⟩

/-- Hashing the same message leaves the same digest and lanes, whatever state it starts in. -/
theorem sameResult_deliver (s s' : State) (m : List Byte) {r : List Byte} (hr : r.length ≤ 40) :
    SameResult ((hashBytes m s.clearStatus).deliver r) ((hashBytes m s'.clearStatus).deliver r) := by
  refine ⟨by simp, by simp, fun _ => ⟨by simp, by simp [hashBytes_digest], by simp [hashBytes_lanes], fun j hj => ?_⟩⟩
  rw [State.deliver_olen, BitVec.toNat_ofNat] at hj
  have hlt : j < r.length := lt_of_lt_of_le hj (Nat.mod_le _ _)
  rw [outByte_deliver_of_lt (by omega) hlt, outByte_deliver_of_lt (by omega) hlt]

/-- What is made of the digest is then the same result. -/
theorem sameResult_deliver_digest (s s' : State) (m : List Byte) {result : List Byte → List Byte}
    (hr : ∀ d : Digest, (result d.toList).length ≤ 40) :
    SameResult ((hashBytes m s.clearStatus).deliver (result (hashBytes m s.clearStatus).digest.toList))
      ((hashBytes m s'.clearStatus).deliver (result (hashBytes m s'.clearStatus).digest.toList)) := by
  rw [hashBytes_digest, hashBytes_digest]
  exact sameResult_deliver s s' m (hr _)

theorem execHash_sameResult (h : SameArgument s s') (hx : execHash s = .next t) :
    ∃ t', execHash s' = .next t' ∧ SameResult t t' := by
  obtain ⟨hr, m, hm, rfl⟩ := execHash_next hx
  have hm' : readBytes s'.argument 0 s'.ilen = some m := by
    rw [← h.ilen, ← hm]
    exact (h.readBytes_eq (by omega)).symm
  exact ⟨_, execHash_held (h.ready hr) hm', sameResult_deliver_digest s s' m (result := id) fun _ => by simp⟩

theorem execDeriveAddress_sameResult (h : SameArgument s s') (hx : execDeriveAddress s = .next t) :
    ∃ t', execDeriveAddress s' = .next t' ∧ SameResult t t' := by
  obtain ⟨hr, ⟨hlen, rfl⟩ | ⟨hlen, m, hm, rfl⟩⟩ := execDeriveAddress_next hx
  · exact ⟨_, execDeriveAddress_short (h.ready hr) (h.ilen ▸ hlen), sameResult_raiseError s s' _⟩
  · have hm' : readBytes s'.argument (s'.ilen - 64) 64 = some m := by
      rw [← h.ilen, ← hm]
      exact (h.readBytes_eq (by omega)).symm
    exact ⟨_, execDeriveAddress_held (h.ready hr) (h.ilen ▸ hlen) hm',
      sameResult_deliver_digest s s' m fun _ => by simp [addressOf_length]⟩

theorem execChecksum_sameResult (h : SameArgument s s') (hx : execChecksum s = .next t) :
    ∃ t', execChecksum s' = .next t' ∧ SameResult t t' := by
  obtain ⟨hr, ⟨hbad, rfl⟩ | ⟨hlen, hok, m, hm, rfl⟩⟩ := execChecksum_next hx
  · have hbad' : s'.ilen ≠ 40 ∨ scanText s'.argument 0 40 = some false := by
      by_cases hlen : s.ilen = 40
      · exact .inr ((h.scanText_eq (by omega)).symm.trans (hbad.resolve_left (not_not_intro hlen)))
      · exact .inl (h.ilen ▸ hlen)
    exact ⟨_, execChecksum_invalid (h.ready hr) hbad', sameResult_raiseError s s' _⟩
  · have hok' : scanText s'.argument 0 40 = some true := (h.scanText_eq (by omega)).symm.trans hok
    have hm' : readBytes s'.argument 0 40 = some m := (h.readBytes_eq (by omega)).symm.trans hm
    exact ⟨_, execChecksum_held (h.ready hr) (h.ilen ▸ hlen) hok' hm',
      sameResult_deliver_digest s s' m fun _ => by simp [recaseText_length]⟩

/-- Settles O40: each operation ends the same way on the same argument, in the error or with the hash of the same message. -/
theorem hostLevelResultDependsOnArgumentOnly : Obligations.HostLevelResultDependsOnArgumentOnly := by
  intro i s s' t hl hheld hilen hmax hbytes hx
  have h : SameArgument s s' := ⟨hheld, hilen, hmax, hbytes⟩
  match i, hl with
  | .hash, _ => exact execHash_sameResult h hx
  | .deriveAddress, _ => exact execDeriveAddress_sameResult h hx
  | .checksum, _ => exact execChecksum_sameResult h hx

end Sys2Proof.Machine
end

section
/-! The host's actions (R164, R180) and the state directly after reset (R36). -/

namespace Sys2Proof.Machine

variable {s : State} {i : Instr}

/-- Settles O45: the laws of a byte written to `IN`. -/
theorem hostWritesOneArgumentByte : Obligations.HostWritesOneArgumentByte := by
  intro s i b rest hhost
  exact ⟨_, step_of_host_cons hhost, rfl, memRead_memWrite_same s.argument i b,
    fun j hj => memRead_memWrite_other s.argument b hj.symm, fun hwf => memWrite_wf hwf i b⟩

/-- Settles O46: the action is the write and nothing else. -/
theorem hostWritesLength : Obligations.HostWritesLength := by
  intro s n rest hhost
  rw [step_of_host_cons hhost]
  rfl

/-- The fields of `STATUS` are packed without overlap (R25). -/
theorem statusWord_toNat (s : State) :
    s.statusWord.toNat = s.phase.code.toNat + 4 * s.err.code.toNat + 16 * s.ovalid.toNat := by
  rw [State.statusWord]
  cases s.phase <;> cases s.err <;> cases s.ovalid <;> rfl

/-- Settles O47: the reply is the packed word. -/
theorem statusReadsPackedFields : Obligations.StatusReadsPackedFields := by
  intro s rest hhost
  refine ⟨_, step_of_host_cons hhost, rfl, ?_⟩
  have hpacked : (s.putHost rest).statusWord.toNat = s.phase.code.toNat + 4 * s.err.code.toNat + 16 * s.ovalid.toNat :=
    statusWord_toNat (s.putHost rest)
  rw [State.putReply_reply, hpacked]
  cases s.phase <;> cases s.err <;> cases s.ovalid <;> rfl

/-- Settles O48: the answers of the two reads, and that a reply changes nothing of the block. -/
theorem resultReadsFollowOvalidAndOlen : Obligations.ResultReadsFollowOvalidAndOlen := by
  refine ⟨fun s a rest hhost => ?_, fun s rest hhost => ?_⟩ <;> rw [step_of_host_cons hhost]
  · exact readOut_eq a (s.putHost rest)
  · refine ⟨fun hv => readOlen_noValue hv, fun hv => ⟨_, readOlen_held hv, rfl, ?_⟩⟩
    rw [State.putReply_reply, BitVec.toNat_setWidth_of_le (by decide), State.putHost_olen]

theorem reset_statusWord : State.reset.statusWord = 0x00 := by decide

/-- Settles O49: the state after the event is written out by the model, and it is the reset state's in every item. -/
theorem resetEventGivesResetState : Obligations.ResetEventGivesResetState := by
  intro s rest hhost
  exact ⟨_, step_of_host_cons hhost, rfl, reset_statusWord, rfl, rfl, rfl, memRead_nil⟩

/-- Settles O16: both shared operations of the unit level look at `lanesHeld` before they act. -/
theorem operationsFaultWhileLanesHoldNoValue : Obligations.OperationsFaultWhileLanesHoldNoValue := by
  intro s hl
  refine ⟨fun i he hw => ?_, fun hp => ⟨fun b => inPhase_noLanes hp hl, inPhase_noLanes hp hl⟩,
    fun hp => inPhase_noLanes hp hl⟩
  obtain ⟨f, hf⟩ := exec_engine he hw
  rw [hf, onLanes_noLanes hl]

/-- In IDLE every sponge operation but SP_INIT is out of order (R26, R159 X2). -/
theorem exec_sponge_idle (hp : s.phase = .idle) (hu : i.unitLevel = true) (he : i.engine = false) (hne : i ≠ .spInit) :
    exec i s = .refused .spongeOrder := by
  obtain rfl | ⟨b, rfl⟩ | rfl | rfl := sponge_of_unitLevel hu he
  · exact absurd rfl hne
  all_goals exact inPhase_refused (by simp [hp])

/-- Settles O50: each kind of operation but SP_INIT stops, at the item or the phase that reset leaves it without. -/
theorem afterResetOnlySpInitRuns : Obligations.AfterResetOnlySpInitRuns := by
  refine ⟨reset_statusWord, fun i hw => ?_⟩
  have hengine (he : i.engine = true) : exec i State.reset = .fault .laneFileHoldsNoValue :=
    (operationsFaultWhileLanesHoldNoValue State.reset rfl).1 i he hw
  have hhost (hl : i.unitLevel = false) : exec i State.reset = .fault .argumentHoldsNoValue :=
    unwrittenArgumentIsFault.1 i State.reset hl rfl
  have hsponge := exec_sponge_idle (i := i) (s := State.reset) rfl
  refine ⟨⟨fun ⟨t, h⟩ => ?_, fun hi => ⟨spongeInit State.reset, by rw [hi]; rfl⟩⟩, hengine, hhost, hsponge⟩
  by_contra hne
  cases hu : i.unitLevel with
  | false => cases (hhost hu).symm.trans h
  | true =>
    cases he : i.engine with
    | true => cases (hengine he).symm.trans h
    | false => cases (hsponge hu he hne).symm.trans h

end Sys2Proof.Machine
end

section
/-! The host's hex text (R56): its characters are address characters, and two of them spell each byte, high nibble first. -/

namespace Sys2Proof.Machine

variable {h : List Byte} {i : Nat}

/-- Nibbles 0 to 9 are written as '0' to '9', the others as 'a' to 'f' (R55). -/
theorem isAddressChar_hexDigit (v : BitVec 4) : isAddressChar (hexDigit v) = true := by
  rw [isAddressChar, Bool.or_eq_true, isDigit, isLowerAF, decide_eq_true_eq, decide_eq_true_eq, hexDigit]
  split
  · exact .inl (by bv_omega)
  · exact .inr (by bv_omega)

@[simp] theorem hexLower_length (h : List Byte) : (hexLower h).length = 2 * h.length := by simp [hexLower]

theorem isAddressChar_of_mem_hexLower {c : Byte} (hc : c ∈ hexLower h) : isAddressChar c = true := by
  obtain ⟨i, -, rfl⟩ := List.mem_map.1 hc
  exact isAddressChar_hexDigit _

theorem hexLower_getD (hi : i < 2 * h.length) : (hexLower h).getD i 0 = hexDigit (nibble h i) := by
  simp [hexLower, hi]

theorem nibble_even (h : List Byte) (i : Nat) : nibble h (2 * i) = (h.getD i 0).extractLsb' 4 4 := by
  have hdiv : 2 * i / 2 = i := by omega
  rw [nibble, if_pos (Nat.mul_mod_right 2 i), hdiv, BitVec.setWidth_ushiftRight_eq_extractLsb]

theorem nibble_odd (h : List Byte) (i : Nat) : nibble h (2 * i + 1) = (h.getD i 0).extractLsb' 0 4 := by
  have hdiv : (2 * i + 1) / 2 = i := by omega
  rw [nibble, if_neg (by omega), hdiv, BitVec.setWidth_eq_extractLsb' (by decide)]

/-- Settles O32: the length and the characters are those of any byte string's text, and each position holds the digit of its nibble. -/
theorem hexTextOfAddressIsAccepted : Obligations.HexTextOfAddressIsAccepted := by
  intro h hlen
  refine ⟨by rw [hexLower_length, hlen], fun c => isAddressChar_of_mem_hexLower, fun i hi => ⟨?_, ?_⟩⟩
  · rw [hexLower_getD (by omega), nibble_even]
  · rw [hexLower_getD (by omega), nibble_odd]

end Sys2Proof.Machine
end

section
/-! The decoder and the encoder (R60 to R64): a word is its operand field and its opcode, and the words of the opcode map are
exactly the words of the well-formed operations. -/

namespace Sys2Proof

variable {w : CommandWord} {i j : Instr} {operand opcode : Byte}

/-! The two fields of a word (R60). -/

@[simp] theorem opcodeOf_commandWord (operand opcode : Byte) : opcodeOf (commandWord operand opcode) = opcode :=
  BitVec.setWidth_append_eq_right

@[simp] theorem operandOf_commandWord (operand opcode : Byte) : operandOf (commandWord operand opcode) = operand := by
  rw [operandOf, BitVec.setWidth_ushiftRight_eq_extractLsb, commandWord, BitVec.extractLsb'_append_eq_left]

theorem commandWord_operandOf_opcodeOf (w : CommandWord) : commandWord (operandOf w) (opcodeOf w) = w := by
  rw [operandOf, opcodeOf, BitVec.setWidth_ushiftRight_eq_extractLsb, BitVec.setWidth_eq_extractLsb' (by decide)]
  exact BitVec.extractLsb'_append_extractLsb'

theorem commandWord_inj {o c o' c' : Byte} : commandWord o c = commandWord o' c' ↔ o = o' ∧ c = c' := by
  refine ⟨fun h => ⟨?_, ?_⟩, fun ⟨ho, hc⟩ => by rw [ho, hc]⟩
  · simpa using congrArg operandOf h
  · simpa using congrArg opcodeOf h

theorem commandWord_and (o c m n : Byte) :
    commandWord o c &&& commandWord m n = commandWord (o &&& m) (c &&& n) := BitVec.and_append

/-- The word written with a shift, `opcode | (operand << 8)`. -/
theorem commandWord_eq_or (operand opcode : Byte) :
    commandWord operand opcode = opcode.setWidth 16 ||| operand.setWidth 16 <<< 8 := by
  have h := BitVec.setWidth_append_eq_shiftLeft_setWidth_or (b := operand) (b' := opcode) (w'' := 16)
  rwa [BitVec.setWidth_eq, BitVec.or_comm] at h

/-! The operand field of a format R word: bits 7:5 are 0 and bits 4:0 are the round index (R61, R62). -/

/-- Bits 7:5 tested as the decoder does. -/
theorem ushiftRight_five_eq_zero_iff : operand >>> 5 = 0 ↔ (operand.setWidth 5).setWidth 8 = operand := by
  constructor <;> intro h <;> bv_omega

theorem setWidth_roundIndex (r : RoundIndex) : (r.setWidth 8).setWidth 5 = r := by bv_omega

theorem setWidth_five_setWidth_eight (operand : Byte) : (operand.setWidth 5).setWidth 8 = operand &&& 0x1F := by
  have hmask : (operand &&& 0x1F).toNat = operand.toNat % 2 ^ 5 := Nat.and_two_pow_sub_one_eq_mod _ 5
  bv_omega

/-- Bits 7:5 tested as a row's mask does. -/
theorem setWidth_eq_of_and_eq_zero (h : operand &&& 0xE0 = 0) : (operand.setWidth 5).setWidth 8 = operand :=
  calc (operand.setWidth 5).setWidth 8 = operand &&& 0x1F := setWidth_five_setWidth_eight operand
    _ = (operand &&& 0x1F) ||| (operand &&& 0xE0) := by rw [h]; exact BitVec.or_zero.symm
    _ = operand &&& (0x1F ||| 0xE0) := BitVec.and_or_distrib_left.symm
    _ = operand := BitVec.and_allOnes

theorem roundField_toNat (w : CommandWord) : (w >>> 8 &&& 0x1F).toNat = ((operandOf w).setWidth 5).toNat := by
  have hmask : (w >>> 8 &&& 0x1F).toNat = (w >>> 8).toNat % 2 ^ 5 := Nat.and_two_pow_sub_one_eq_mod _ 5
  rw [hmask, operandOf]
  simp

theorem roundIndexOk_iff {r : RoundIndex} : roundIndexOk r = true ↔ r.toNat ≤ 23 := by
  rw [roundIndexOk, decide_eq_true_eq, Config.rounds, Nat.lt_succ_iff]

/-! What the decoder answers for each format (R61). -/

theorem decodeNoOperand_eq_ok : decodeNoOperand operand i = .ok j ↔ operand = 0 ∧ i = j := by
  by_cases h : operand = 0
  · rw [decodeNoOperand, if_pos h]
    simp [h]
  · rw [decodeNoOperand, if_neg h]
    exact ⟨nofun, fun ⟨hzero, _⟩ => absurd hzero h⟩

theorem decodeRound_eq_ok {make : RoundIndex → Instr} :
    decodeRound operand make = .ok i ↔ ∃ r, roundIndexOk r = true ∧ r.setWidth 8 = operand ∧ make r = i := by
  constructor
  · intro h
    rw [decodeRound] at h
    split at h
    · cases h
    · split at h
      · rename_i hzero hok
        exact ⟨_, hok, ushiftRight_five_eq_zero_iff.1 (not_ne_iff.1 hzero), Except.ok.inj h⟩
      · cases h
  · rintro ⟨r, hok, rfl, rfl⟩
    have hzero : r.setWidth 8 >>> 5 = (0 : Byte) := ushiftRight_five_eq_zero_iff.2 (by rw [setWidth_roundIndex])
    rw [decodeRound, setWidth_roundIndex, if_neg (not_ne_iff.2 hzero), if_pos hok]

theorem decode_commandWord_iota (operand : Byte) : decode (commandWord operand 0x05) = decodeRound operand .iota := by
  simp [decode]

theorem decode_commandWord_round (operand : Byte) : decode (commandWord operand 0x06) = decodeRound operand .round := by
  simp [decode]

theorem decode_commandWord_spAbsorb (operand : Byte) : decode (commandWord operand 0x11) = .ok (.spAbsorb operand) := by
  simp [decode]

/-- Settles O6: a word without an operand is a fixed word; the others have one field, which the decoder reads back. -/
theorem encodeThenDecodeReturnsInstruction : Obligations.EncodeThenDecodeReturnsInstruction := by
  intro i hw
  match i with
  | .iota r => exact (decode_commandWord_iota _).trans (decodeRound_eq_ok.2 ⟨r, hw, rfl, rfl⟩)
  | .round r => exact (decode_commandWord_round _).trans (decodeRound_eq_ok.2 ⟨r, hw, rfl, rfl⟩)
  | .spAbsorb b => exact decode_commandWord_spAbsorb b
  | .theta | .rho | .pi | .chi | .permute | .spInit | .spPad | .spSqueeze | .hash | .deriveAddress | .checksum => rfl

/-! A word that decodes (R63, R64). -/

/-- The word of a format N or B operation is its opcode alone. -/
theorem wordOf_decodeNoOperand {c : Nat} (hop : opcode.toNat = c) (h : decodeNoOperand operand i = .ok j)
    (hw : i.wellFormed = true) (hi : encode i = commandWord 0 (BitVec.ofNat 8 c)) :
    j.wellFormed = true ∧ encode j = commandWord operand opcode := by
  obtain ⟨rfl, rfl⟩ := decodeNoOperand_eq_ok.1 h
  exact ⟨hw, by rw [hi, ← hop, BitVec.ofNat_toNat, BitVec.setWidth_eq]⟩

/-- The word of a format R operation is its opcode with the round index in bits 12:8. -/
theorem wordOf_decodeRound {c : Nat} {make : RoundIndex → Instr} (hop : opcode.toNat = c)
    (h : decodeRound operand make = .ok j) (hw : ∀ r, (make r).wellFormed = roundIndexOk r)
    (hmake : ∀ r, encode (make r) = commandWord (r.setWidth 8) (BitVec.ofNat 8 c)) :
    j.wellFormed = true ∧ encode j = commandWord operand opcode := by
  obtain ⟨r, hok, rfl, rfl⟩ := decodeRound_eq_ok.1 h
  exact ⟨(hw r).trans hok, by rw [hmake, ← hop, BitVec.ofNat_toNat, BitVec.setWidth_eq]⟩

/-- Settles O7: the arm of the decoder that answers fixes the opcode, and its format fixes the operand field. -/
theorem decodedWordIsItsEncoding : Obligations.DecodedWordIsItsEncoding := by
  intro w i h
  rw [decode] at h
  rw [← commandWord_operandOf_opcodeOf w]
  split at h
  case h_5 hop | h_6 hop => exact wordOf_decodeRound hop h (fun _ => rfl) fun _ => rfl
  case h_9 hop =>
    obtain rfl := Except.ok.inj h
    have hopcode : opcodeOf w = 0x11 := BitVec.eq_of_toNat_eq hop
    exact ⟨rfl, by rw [hopcode, encode]⟩
  case h_15 => cases h
  all_goals exact wordOf_decodeNoOperand ‹_› h rfl rfl

/-- An operation is the meaning of exactly one word, its own, and only where it is well formed. -/
theorem decode_eq_ok_iff : decode w = .ok i ↔ i.wellFormed = true ∧ encode i = w :=
  ⟨decodedWordIsItsEncoding w i, fun ⟨hw, hi⟩ => hi ▸ encodeThenDecodeReturnsInstruction i hw⟩

/-- Settles O4: the word written with shifts is the operation's command word. -/
theorem decodeReadsOperandFields : Obligations.DecodeReadsOperandFields := by
  have hround (r : RoundIndex) : r.setWidth 16 = (r.setWidth 8).setWidth 16 :=
    by bv_omega
  refine ⟨fun r hr => ⟨decode_eq_ok_iff.2 ⟨roundIndexOk_iff.2 hr, ?_⟩, decode_eq_ok_iff.2 ⟨roundIndexOk_iff.2 hr, ?_⟩⟩,
    fun b => decode_eq_ok_iff.2 ⟨rfl, commandWord_eq_or b 0x11⟩⟩
  · rw [hround]
    exact commandWord_eq_or (r.setWidth 8) 0x05
  · rw [hround]
    exact commandWord_eq_or (r.setWidth 8) 0x06

/-- Settles O5: one evaluation of the decoder for each word. -/
theorem sampleWordsDecode : Obligations.SampleWordsDecode := by
  unfold Obligations.SampleWordsDecode
  decide

/-! The opcode map (R63). -/

/-- The words a row selects are words of well-formed operations with the row's mnemonic. -/
def OpcodeRow.SelectsItsOperations (row : OpcodeRow) : Prop :=
  ∀ w, row.selects w = true → ∃ i, i.wellFormed = true ∧ encode i = w ∧ i.mnemonic = row.mnemonic

theorem selects_iff {name : String} {pattern mask : CommandWord} {indexed : Bool} :
    OpcodeRow.selects ⟨name, pattern, mask, indexed⟩ w = true ↔
      w &&& mask = pattern ∧ (indexed = true → ((operandOf w).setWidth 5).toNat ≤ 23) := by
  rw [OpcodeRow.selects, roundField_toNat, Bool.and_eq_true, decide_eq_true_eq]
  cases indexed <;> simp

theorem noOperandRow_selectsItsOperations {name : String} {pattern : CommandWord} (i : Instr) (hw : i.wellFormed = true)
    (hi : encode i = pattern) (hname : i.mnemonic = name) :
    OpcodeRow.SelectsItsOperations ⟨name, pattern, 0xFFFF, false⟩ := by
  intro w h
  obtain ⟨hmask, -⟩ := selects_iff.1 h
  have hall : w &&& BitVec.allOnes 16 = pattern := hmask
  exact ⟨i, hw, by rw [hi, ← hall, BitVec.and_allOnes], hname⟩

theorem roundRow_selectsItsOperations {name : String} {opcode : Byte} (make : RoundIndex → Instr)
    (hw : ∀ r, (make r).wellFormed = roundIndexOk r) (hmake : ∀ r, encode (make r) = commandWord (r.setWidth 8) opcode)
    (hname : ∀ r, (make r).mnemonic = name) :
    OpcodeRow.SelectsItsOperations ⟨name, commandWord 0 opcode, commandWord 0xE0 0xFF, true⟩ := by
  intro w h
  obtain ⟨hmask, hindex⟩ := selects_iff.1 h
  rw [← commandWord_operandOf_opcodeOf w, commandWord_and, commandWord_inj] at hmask
  obtain ⟨hoperand, hopcode⟩ := hmask
  have hopcode : opcodeOf w = opcode := BitVec.and_allOnes.symm.trans hopcode
  refine ⟨make ((operandOf w).setWidth 5), (hw _).trans (roundIndexOk_iff.2 (hindex rfl)), ?_, hname _⟩
  rw [hmake, setWidth_eq_of_and_eq_zero hoperand, ← hopcode, commandWord_operandOf_opcodeOf]

theorem spAbsorbRow_selectsItsOperations :
    OpcodeRow.SelectsItsOperations ⟨"SP_ABSORB", commandWord 0 0x11, commandWord 0 0xFF, false⟩ := by
  intro w h
  obtain ⟨hmask, -⟩ := selects_iff.1 h
  rw [← commandWord_operandOf_opcodeOf w, commandWord_and, commandWord_inj] at hmask
  have hopcode : opcodeOf w = 0x11 := BitVec.and_allOnes.symm.trans hmask.2
  exact ⟨.spAbsorb (operandOf w), rfl, by rw [encode, ← hopcode, commandWord_operandOf_opcodeOf], rfl⟩

theorem opcodeRows_selectTheirOperations : ∀ row ∈ opcodeRows, row.SelectsItsOperations := by
  simp only [opcodeRows, List.forall_mem_cons]
  exact ⟨noOperandRow_selectsItsOperations .theta rfl rfl rfl, noOperandRow_selectsItsOperations .rho rfl rfl rfl,
      noOperandRow_selectsItsOperations .pi rfl rfl rfl, noOperandRow_selectsItsOperations .chi rfl rfl rfl,
      roundRow_selectsItsOperations .iota (fun _ => rfl) (fun _ => rfl) fun _ => rfl,
      roundRow_selectsItsOperations .round (fun _ => rfl) (fun _ => rfl) fun _ => rfl,
      noOperandRow_selectsItsOperations .permute rfl rfl rfl, noOperandRow_selectsItsOperations .spInit rfl rfl rfl,
      spAbsorbRow_selectsItsOperations,
      noOperandRow_selectsItsOperations .spPad rfl rfl rfl, noOperandRow_selectsItsOperations .spSqueeze rfl rfl rfl,
      noOperandRow_selectsItsOperations .hash rfl rfl rfl, noOperandRow_selectsItsOperations .deriveAddress rfl rfl rfl,
      noOperandRow_selectsItsOperations .checksum rfl rfl rfl, List.forall_mem_nil _⟩

theorem exists_row_selects_encode (i : Instr) : Laws.RowOfWord.Statement i := by
  match i with
  | .theta => exact Laws.RowOfWord.theta
  | .rho => exact Laws.RowOfWord.rho
  | .pi => exact Laws.RowOfWord.pi
  | .chi => exact Laws.RowOfWord.chi
  | .iota r => exact Laws.RowOfWord.iota r
  | .round r => exact Laws.RowOfWord.round r
  | .permute => exact Laws.RowOfWord.permute
  | .spInit => exact Laws.RowOfWord.spInit
  | .spAbsorb b => exact Laws.RowOfWord.spAbsorb b
  | .spPad => exact Laws.RowOfWord.spPad
  | .spSqueeze => exact Laws.RowOfWord.spSqueeze
  | .hash => exact Laws.RowOfWord.hash
  | .deriveAddress => exact Laws.RowOfWord.deriveAddress
  | .checksum => exact Laws.RowOfWord.checksum

/-- Settles O3: decoded words and selected words are both the words of the well-formed operations. -/
theorem decodeFollowsOpcodeRows : Obligations.DecodeFollowsOpcodeRows := by
  refine ⟨fun w i h => ?_, fun w row hrow h => ?_⟩
  · obtain ⟨hw, rfl⟩ := decode_eq_ok_iff.1 h
    exact exists_row_selects_encode i hw
  · obtain ⟨i, hw, hi, hname⟩ := opcodeRows_selectTheirOperations row hrow w h
    exact ⟨i, decode_eq_ok_iff.2 ⟨hw, hi⟩, hname⟩

end Sys2Proof
end

section
/-! Reserved words and operations at the machine (R64, R159 X1), and HASH as the expansion R67 gives it. -/

namespace Sys2Proof.Machine

variable {s : State} {w : CommandWord} {r : RoundIndex}

theorem issueWord_of_decode_error {why : DecodeReject} (h : decode w = .error why) :
    issueWord w s = .refused (.reservedWord why) := by
  rw [issueWord, h]

/-- Settles O2: a word that decodes is selected by some row, so this word decodes to nothing. -/
theorem stepRefusesReservedWord : Obligations.StepRefusesReservedWord := by
  intro s w rest hhost hrows
  rw [step_of_host_cons hhost]
  cases hdecode : decode w with
  | error why => exact ⟨why, issueWord_of_decode_error hdecode⟩
  | ok i =>
    obtain ⟨row, hrow, -, hsel⟩ := decodeFollowsOpcodeRows.1 w i hdecode
    exact absurd hsel (Bool.eq_false_iff.1 (hrows row hrow))

theorem roundIndexOk_eq_false (h : 23 < r.toNat) : roundIndexOk r = false :=
  Bool.eq_false_iff.2 fun hok => Nat.not_lt.2 (roundIndexOk_iff.1 hok) h

/-- Settles O17: an operation that is not well formed is refused. -/
theorem reservedRoundIndexIsRefused : Obligations.ReservedRoundIndexIsRefused := fun s r hr =>
  ⟨exec_illFormed (i := .iota r) (roundIndexOk_eq_false hr) s, exec_illFormed (i := .round r) (roundIndexOk_eq_false hr) s⟩

theorem execAll_cons_of_next {t : State} {i : Instr} (h : exec i s = .next t) (rest : List Instr) :
    execAll (i :: rest) s = execAll rest t := by
  rw [execAll, h]

/-- In ABSORB each byte of a message is absorbed in turn (R102). -/
theorem execAll_spAbsorb_append (m : List Byte) (rest : List Instr) (hp : s.phase = .absorb) (hl : s.lanesHeld = true) :
    execAll (m.map .spAbsorb ++ rest) s = execAll rest (m.foldl (fun t b => spongeAbsorb b t) s) := by
  induction m generalizing s with
  | nil => rfl
  | cons b m ih =>
    have hb : exec (.spAbsorb b) s = .next (spongeAbsorb b s) := inPhase_legal hp hl
    rw [List.map_cons, List.cons_append, execAll_cons_of_next hb, List.foldl_cons]
    exact ih ((spongeAbsorb_phase b s).trans hp) ((spongeAbsorb_lanesHeld b s).trans hl)

theorem execAll_spPad_spSqueeze (hp : s.phase = .absorb) (hl : s.lanesHeld = true) :
    execAll [.spPad, .spSqueeze] s = .next (spongeSqueeze (spongePad s)) := by
  have hpad : exec .spPad s = .next (spongePad s) := inPhase_legal hp hl
  have hsqueeze : exec .spSqueeze (spongePad s) = .next (spongeSqueeze (spongePad s)) :=
    inPhase_legal (spongePad_phase s) ((spongePad_lanesHeld s).trans hl)
  rw [execAll_cons_of_next hpad, execAll_cons_of_next hsqueeze, execAll]

/-- The unit-level sequence of R105 completes from every state, with the effect of one hash. -/
theorem execAll_hashExpansion (m : List Byte) (s : State) :
    execAll (.spInit :: m.map .spAbsorb ++ [.spPad, .spSqueeze]) s = .next (hashBytes m s) := by
  have hinit : exec .spInit s = .next (spongeInit s) := rfl
  rw [List.cons_append, execAll_cons_of_next hinit, execAll_spAbsorb_append m _ rfl rfl,
    execAll_spPad_spSqueeze (foldl_spongeAbsorb_phase m _) (foldl_spongeAbsorb_lanesHeld m _), hashBytes]

/-- Settles O26: both run the same hash, whose lanes and digest depend on the message alone. -/
theorem hashEqualsItsExpansion : Obligations.HashEqualsItsExpansion := by
  intro s m hr hlen hm
  have hread : readBytes s.argument 0 s.ilen = some m := hlen ▸ readBytes_of_holdsBytes hm
  refine ⟨_, _, execHash_held hr hread, execAll_hashExpansion m s, ?_, ?_, ?_, ?_, fun i hi => ?_⟩
  · rw [State.deliver_lanes, hashBytes_lanes, hashBytes_lanes]
  · rw [State.deliver_pos, hashBytes_pos, hashBytes_pos]
  · rw [State.deliver_phase, hashBytes_phase, hashBytes_phase]
  · rw [State.deliver_digest, hashBytes_digest, hashBytes_digest]
  · have hlt : i < (hashBytes m s.clearStatus).digest.toList.length := by rwa [Vector.length_toList]
    rw [outByte_deliver_of_lt (by omega) hlt, ← List.getD_eq_getElem _ 0 hlt, hashBytes_digest, hashBytes_digest]

end Sys2Proof.Machine
end

section
/-! The Permutation Engine (R80 to R88): each operation writes what one function makes of the lanes, and a sequence of
operations writes what those functions make one after the other. -/

namespace Sys2Proof.Machine

variable {s : State} {i : Instr}

/-- What an operation of the Permutation Engine makes of the lane file (R80); the other operations are not of the engine. -/
def laneEffect : Instr → Lanes → Lanes
  | .theta => theta
  | .rho => rho
  | .pi => piMove
  | .chi => chi
  | .iota r => iota r.toNat
  | .round r => keccakRound r.toNat
  | .permute => permute
  | _ => id

/-- Where `A` holds a value, an engine operation with a legal operand completes with its effect on the lanes. -/
theorem exec_engine_held (he : i.engine = true) (hw : i.wellFormed = true) (hl : s.lanesHeld = true) :
    exec i s = .next (s.putLanes (laneEffect i s.lanes)) := by
  match i, he with
  | .theta, _ | .rho, _ | .pi, _ | .chi, _ | .permute, _ => exact onLanes_held hl
  | .iota r, _ | .round r, _ => exact (if_pos hw).trans (onLanes_held hl)

/-- A sequence of engine operations completes with their effects in order. -/
theorem execAll_engine {ops : List Instr} (hops : ∀ i ∈ ops, i.engine = true ∧ i.wellFormed = true)
    (hl : s.lanesHeld = true) :
    execAll ops s = .next (s.putLanes (ops.foldl (fun a i => laneEffect i a) s.lanes)) := by
  induction ops generalizing s with
  | nil => rfl
  | cons i rest ih =>
    obtain ⟨⟨he, hw⟩, hrest⟩ := List.forall_mem_cons.1 hops
    rw [execAll_cons_of_next (exec_engine_held he hw hl)]
    exact ih hrest hl

/-- Settles O15: what an engine operation writes is its effect on the lanes alone. -/
theorem engineResultDependsOnLanesOnly : Obligations.EngineResultDependsOnLanesOnly := by
  intro i s s' t he hl hl' hlanes h
  have hw : i.wellFormed = true := wellFormed_of_next h
  obtain rfl := Host.Outcome.next.inj ((exec_engine_held he hw hl).symm.trans h)
  exact ⟨_, exec_engine_held he hw hl', congrArg (laneEffect i) hlanes.symm⟩

/-! Lanes by coordinate, the indices taken modulo 5 (R22, R88). -/

section Lanes

variable (a : Lanes) {x y r : Nat}

theorem laneAt_mod_left (x y : Nat) : laneAt a (x % 5) y = laneAt a x y := by
  rw [laneAt, laneAt, Nat.mod_mod]

theorem columnParity_mod (x : Nat) : columnParity a (x % 5) = columnParity a x := by
  simp only [columnParity, laneAt_mod_left]

/-- The parity of a column, its five lanes by linear index (R81). -/
theorem columnParity_eq (hx : x < 5) :
    columnParity a x = lane a x ^^^ lane a (x + 5) ^^^ lane a (x + 10) ^^^ lane a (x + 15) ^^^ lane a (x + 20) := by
  simp [columnParity, laneAt_eq_lane a hx]

/-- The mix of a column from the parities of its two neighbours, both named by a column below 5 (R81). -/
theorem columnMix_eq (x : Nat) :
    columnMix a x = columnParity a ((x + 4) % 5) ^^^ (columnParity a ((x + 1) % 5)).rotateLeft 1 := by
  rw [columnParity_mod, columnParity_mod, columnMix, rotl]

/-- PI puts the lane at `(x,y)` at `(y, (2x+3y) mod 5)` (R83): read backwards from there, `y + 3(2x+3y)` is `x` modulo 5. -/
theorem lane_piMove_target (hx : x < 5) (hy : y < 5) :
    lane (piMove a) (y + 5 * ((2 * x + 3 * y) % 5)) = lane a (x + 5 * y) := by
  have hback : (y + 3 * ((2 * x + 3 * y) % 5)) % 5 = x := by omega
  rw [lane_piMove a hy (Nat.mod_lt _ (by omega)), ← laneAt_mod_left, hback, laneAt_eq_lane a hx hy]

/-- CHI with the two neighbours named by a column below 5 (R84). -/
theorem lane_chi_mod (hx : x < 5) (hy : y < 5) :
    lane (chi a) (x + 5 * y) = laneAt a x y ^^^ (~~~ laneAt a ((x + 1) % 5) y &&& laneAt a ((x + 2) % 5) y) := by
  rw [lane_chi a hx hy, laneAt_mod_left, laneAt_mod_left]

/-- IOTA by coordinate: the round constant goes into lane `(0,0)` (R85). -/
theorem lane_iota_coordinate (hx : x < 5) (hy : y < 5) :
    lane (iota r a) (x + 5 * y) = lane a (x + 5 * y) ^^^ if x = 0 ∧ y = 0 then roundConstant r else 0 := by
  rw [lane_iota a (by omega)]
  by_cases h : x = 0 ∧ y = 0
  · obtain ⟨rfl, rfl⟩ := h
    rfl
  · rw [if_neg (by omega), if_neg h]
    exact BitVec.xor_zero.symm

end Lanes

/-! The five steps (R81 to R85). -/

/-- Settles O8: C and D are the model's column parities and their mix. -/
theorem thetaMixesColumnParities : Obligations.ThetaMixesColumnParities :=
  ⟨encodeThenDecodeReturnsInstruction .theta rfl, fun s hl =>
    ⟨_, columnParity s.lanes, columnMix s.lanes, exec_engine_held rfl rfl hl, rfl, fun _ => columnParity_eq s.lanes,
      fun x _ => columnMix_eq s.lanes x, fun _ _ => lane_theta s.lanes⟩⟩

/-- Settles O9: the rotation of a lane, bit by bit. -/
theorem rhoRotatesEachLaneByItsOffset : Obligations.RhoRotatesEachLaneByItsOffset := by
  refine ⟨encodeThenDecodeReturnsInstruction .rho rfl, fun s hl =>
    ⟨_, exec_engine_held rfl rfl hl, rfl, fun i j hi hj => ?_⟩⟩
  rw [State.putLanes_lanes, laneEffect, lane_rho _ hi, rotl_bit _ (rotationOffset_lt i) hj]

/-- Settles O10: the target of each lane, where the model names the source of each. -/
theorem piMovesEachLane : Obligations.PiMovesEachLane :=
  ⟨encodeThenDecodeReturnsInstruction .pi rfl, fun s hl =>
    ⟨_, exec_engine_held rfl rfl hl, rfl, fun _ _ => lane_piMove_target s.lanes⟩⟩

/-- Settles O11: the lane of CHI, its row neighbours by linear index. -/
theorem chiCombinesRowNeighbours : Obligations.ChiCombinesRowNeighbours := by
  refine ⟨encodeThenDecodeReturnsInstruction .chi rfl, fun s hl =>
    ⟨_, exec_engine_held rfl rfl hl, rfl, fun x y hx hy => ?_⟩⟩
  have hcol (k : Nat) : k % 5 < 5 := Nat.mod_lt k (by omega)
  rw [State.putLanes_lanes, laneEffect, lane_chi_mod _ hx hy, laneAt_eq_lane _ hx hy, laneAt_eq_lane _ (hcol _) hy,
    laneAt_eq_lane _ (hcol _) hy]

/-- Settles O12: the two cases of a lane of IOTA. -/
theorem iotaXorsRoundConstantIntoLaneZero : Obligations.IotaXorsRoundConstantIntoLaneZero := fun r hr =>
  ⟨(decodeReadsOperandFields.1 r hr).1, fun s hl =>
    ⟨_, exec_engine_held rfl (roundIndexOk_iff.2 hr) hl, rfl, lane_iota s.lanes (by omega),
      fun i h1 h25 => (lane_iota s.lanes h25).trans (if_neg (by omega))⟩⟩

/-! Rounds (R86, R87). -/

/-- The end of a round, CHI and IOTA in one expression (R86): `b` is the lane file that THETA, RHO and PI leave. -/
theorem lane_iota_chi (b : Lanes) {x y r : Nat} (hx : x < 5) (hy : y < 5) :
    lane (iota r (chi b)) (x + 5 * y) =
      (laneAt b x y ^^^ (~~~ laneAt b ((x + 1) % 5) y &&& laneAt b ((x + 2) % 5) y)) ^^^
        if x = 0 ∧ y = 0 then roundConstant r else 0 := by
  rw [lane_iota_coordinate _ hx hy, lane_chi_mod _ hx hy]

/-- Where the mixed and rotated lane `(x,y)` stands after PI (R81, R82, R83). -/
theorem laneAt_piMove_rho_theta (a : Lanes) {x y : Nat} (hx : x < 5) (hy : y < 5) :
    laneAt (piMove (rho (theta a))) y ((2 * x + 3 * y) % 5) =
      (lane a (x + 5 * y) ^^^ columnMix a x).rotateLeft (rotationOffset (x + 5 * y)) := by
  rw [laneAt_eq_lane _ hy (Nat.mod_lt _ (by omega)), lane_piMove_target _ hx hy, lane_rho _ (by omega),
    lane_theta _ hx hy, rotl]

/-- Settles O13: the effects of the five operations compose to the round, whose lanes are those of the fused form. -/
theorem roundHasFusedForm : Obligations.RoundHasFusedForm := by
  intro r hr
  have hw : roundIndexOk r = true := roundIndexOk_iff.2 hr
  refine ⟨(decodeReadsOperandFields.1 r hr).2, fun s hl =>
    ⟨_, columnParity s.lanes, columnMix s.lanes, laneAt (piMove (rho (theta s.lanes))), exec_engine_held rfl hw hl, rfl,
      execAll_engine ?_ hl, fun _ => columnParity_eq s.lanes, fun x _ => columnMix_eq s.lanes x,
      fun _ _ => laneAt_piMove_rho_theta s.lanes, fun _ _ => lane_iota_chi _⟩⟩
  simp [Instr.engine, Instr.wellFormed, hw]

theorem toNat_roundIndex {r : Nat} (hr : r < 24) : (BitVec.ofNat 5 r).toNat = r :=
  (BitVec.toNat_ofNat r 5).trans (Nat.mod_eq_of_lt (by omega))

/-- The effects of ROUND 0 to ROUND 23 in order are that of PERMUTE (R87). -/
theorem foldl_laneEffect_rounds (a : Lanes) :
    ((List.range 24).map fun r => .round (BitVec.ofNat 5 r)).foldl (fun b i => laneEffect i b) a = permute a := by
  rw [List.foldl_map, permute, Config.rounds]
  refine List.foldl_ext _ _ _ fun b r hr => ?_
  rw [laneEffect, toNat_roundIndex (List.mem_range.1 hr)]

/-- Settles O14: PERMUTE and the 24 operations have the same effect on the lanes. -/
theorem permuteIsTwentyFourRounds : Obligations.PermuteIsTwentyFourRounds := by
  refine ⟨encodeThenDecodeReturnsInstruction .permute rfl, fun s hl => ⟨_, exec_engine_held rfl rfl hl, rfl, ?_⟩⟩
  have hops : ∀ i ∈ (List.range 24).map fun r => Instr.round (BitVec.ofNat 5 r),
      i.engine = true ∧ i.wellFormed = true := by
    refine List.forall_mem_map.2 fun r hr => ⟨rfl, roundIndexOk_iff.2 ?_⟩
    have hlt : r < 24 := List.mem_range.1 hr
    rw [toNat_roundIndex hlt]
    omega
  rw [execAll_engine hops hl, foldl_laneEffect_rounds, laneEffect]

/-! PI moves lanes along a permutation of their indices, which has order 24 (R83, V-PI-3). -/

/-- The index of the lane that PI moves to lane `i`: with `i` at `(x,y)` it is the lane at `(x + 3y, x)` (R83). -/
def piSource (i : Nat) : Nat := (i % 5 + 3 * (i / 5)) % 5 + 5 * (i % 5)

theorem piSource_lt (i : Nat) : piSource i < 25 := by
  unfold piSource
  omega

theorem lane_piMove_index (a : Lanes) {i : Nat} (hi : i < 25) : lane (piMove a) i = lane a (piSource i) := by
  rw [piMove, lane_lanesOf_index _ hi, laneAt, Nat.mod_mod, piSource]

theorem lane_piMove_iterate (a : Lanes) (n : Nat) {i : Nat} (hi : i < 25) :
    lane (piMove^[n] a) i = lane a (piSource^[n] i) := by
  induction n generalizing i with
  | zero => rfl
  | succ n ih =>
    rw [Function.iterate_succ_apply', lane_piMove_index _ hi, ih (piSource_lt i), Function.iterate_succ_apply]

theorem piSource_iterate_twentyFour : ∀ i < 25, piSource^[24] i = i := by decide

theorem piMove_iterate_twentyFour (a : Lanes) : piMove^[24] a = a :=
  lanes_ext fun i hi => by rw [lane_piMove_iterate a 24 hi, piSource_iterate_twentyFour i hi]

/-- Settles O18: the effect of the 24 operations is that of 24 moves of the lanes. -/
theorem piHasOrderTwentyFour : Obligations.PiHasOrderTwentyFour := by
  intro s hl
  have hops : ∀ i ∈ List.replicate 24 Instr.pi, i.engine = true ∧ i.wellFormed = true :=
    fun i hi => List.eq_of_mem_replicate hi ▸ ⟨rfl, rfl⟩
  have hfold : (List.replicate 24 Instr.pi).foldl (fun a i => laneEffect i a) s.lanes = piMove^[24] s.lanes := rfl
  rw [execAll_engine hops hl, hfold, piMove_iterate_twentyFour]
  rfl

end Sys2Proof.Machine
end

section
/-! The Sponge Processor (R101 to R104): what each of its four operations answers, where it is legal and where it is refused. -/

namespace Sys2Proof.Machine

variable {s : State}

theorem lane_zeroLanes {i : Nat} (hi : i < 25) : lane (Vector.replicate 25 0) i = 0 := by
  rw [lane_eq_getElem _ hi, Vector.getElem_replicate]

/-- Settles O19: the state that SP_INIT answers is written out by the model. -/
theorem spInitStartsHash : Obligations.SpInitStartsHash :=
  ⟨encodeThenDecodeReturnsInstruction .spInit rfl, fun s =>
    ⟨spongeInit s, rfl, onlySpongeChanges_of_beside (spongeInit_beside s), fun _ => lane_zeroLanes, rfl, rfl, rfl⟩⟩

/-- PERMUTE on a state with its lanes exchanged, where `A` holds a value (R87). -/
theorem exec_permute_withLanes (hl : s.lanesHeld = true) (a : Lanes) :
    exec .permute { s with lanes := a } = .next { s with lanes := permute a } := exec_engine_held rfl rfl hl

/-- The byte view with the XORed byte named on the right, as R102 and R103 name it. -/
theorem stateByte_xorStateByte_apply (a : Lanes) (p : Nat) (b : Byte) {i : Nat} (hi : i < 200) :
    stateByte (xorStateByte a p b) i = stateByte a i ^^^ if i = p then b else 0 := by
  rw [stateByte_xorStateByte a b hi]
  by_cases h : i = p
  · rw [if_pos h.symm, if_pos h]
  · rw [if_neg (Ne.symm h), if_neg h]
    exact BitVec.xor_zero.symm

/-- The two padding bytes in the byte view, which XOR to 0x81 where they coincide (R103). -/
theorem stateByte_padLanes (a : Lanes) (p : Nat) {i : Nat} (hi : i < 200) :
    stateByte (padLanes a p) i =
      stateByte a i ^^^ (if i = p then 0x01 else 0x00) ^^^ (if i = 135 then 0x80 else 0x00) := by
  rw [padLanes, stateByte_xorStateByte_apply _ _ _ hi, stateByte_xorStateByte_apply _ _ _ hi]
  rfl

/-- Settles O20: the byte that fills the block is followed by the permutation, any other byte by none. -/
theorem spAbsorbXorsByteAndPermutesFullBlock : Obligations.SpAbsorbXorsByteAndPermutesFullBlock := by
  refine fun b => ⟨decodeReadsOperandFields.2 b, fun s => ⟨fun hp => inPhase_refused hp, fun hp hl hpos => ?_⟩⟩
  have hexec : exec (.spAbsorb b) s = .next (spongeAbsorb b s) := inPhase_legal hp hl
  refine ⟨spongeAbsorb b s, xorStateByte s.lanes s.pos.toNat b, hexec, ?_, fun i hi => ?_, ?_⟩
  · rw [spongeAbsorb]
    split <;> rfl
  · rw [stateByte_xorStateByte _ _ hi]
    exact if_congr eq_comm rfl rfl
  · by_cases hfull : s.pos.toNat = 135
    · rw [if_pos hfull, spongeAbsorb_fills b hfull]
      exact ⟨exec_permute_withLanes hl _, rfl⟩
    · rw [if_neg hfull, spongeAbsorb_within b (by omega)]
      exact ⟨rfl, pos_succ_toNat hpos⟩

/-- Settles O21: the padded lanes are the model's, byte by byte, and one permutation follows. -/
theorem spPadPadsAndPermutes : Obligations.SpPadPadsAndPermutes :=
  ⟨encodeThenDecodeReturnsInstruction .spPad rfl, fun s => ⟨fun hp => inPhase_refused hp, fun hp hl _ =>
    ⟨spongePad s, padLanes s.lanes s.pos.toNat, inPhase_legal hp hl, rfl, fun _ => stateByte_padLanes s.lanes _,
      exec_permute_withLanes hl _⟩⟩⟩

/-- A digest byte is a field of 8 bits of its lane (R104). -/
theorem digestOf_getD (a : Lanes) {i : Nat} (hi : i < 32) :
    (digestOf a).toList.getD i 0 = (lane a (i / 8)).extractLsb' (8 * (i % 8)) 8 := by
  rw [List.getD_eq_getElem _ _ (by rwa [Vector.length_toList]), Vector.getElem_toList, digestOf_getElem a hi, stateByte,
    BitVec.setWidth_ushiftRight_eq_extractLsb]

/-- Settles O22: what SP_SQUEEZE writes is the digest of the lanes and IDLE. -/
theorem spSqueezeReadsDigest : Obligations.SpSqueezeReadsDigest := by
  refine ⟨encodeThenDecodeReturnsInstruction .spSqueeze rfl, fun s => ⟨fun hp => inPhase_refused hp, fun hp hl =>
    ⟨spongeSqueeze s, inPhase_legal hp hl, ?_, fun i hi => ?_⟩⟩⟩
  · rw [spongeSqueeze, State.putDigest, State.putPhase]
  · rw [spongeSqueeze_digest, digestOf_getD _ hi]

/-- SP_SQUEEZE where all but `A`, `POS` and `PHASE` is still as it was in `s` (R53, R104). -/
theorem spongeSqueeze_frame {u : State} (h : onlySpongeChanges s u) (hl : u.lanesHeld = true) :
    spongeSqueeze u =
      { s with
        lanes := (spongeSqueeze u).lanes, pos := (spongeSqueeze u).pos, lanesHeld := true, phase := .idle
        digest := (spongeSqueeze u).digest, digestHeld := true } := by
  rw [onlySpongeChanges, hl] at h
  rw [h, spongeSqueeze, State.putDigest, State.putPhase]

/-- A whole hash writes `A`, `POS`, `PHASE` and `DG` and nothing else (R53, R105). -/
theorem hashBytes_frame (m : List Byte) (s : State) :
    hashBytes m s =
      { s with
        lanes := (hashBytes m s).lanes, pos := (hashBytes m s).pos, lanesHeld := true, phase := .idle
        digest := (hashBytes m s).digest, digestHeld := true } := by
  have hbeside := besideSponge_trans (spongeInit_beside s)
    (besideSponge_trans (foldl_spongeAbsorb_beside m _) (spongePad_beside _))
  rw [hashBytes]
  exact spongeSqueeze_frame (onlySpongeChanges_of_beside hbeside) (hashBytes_lanesHeld m s)

/-- Settles O24: the sequence has the effect of one hash, whose digest is that of the message. -/
theorem unitSequenceComputesKeccak256 : Obligations.UnitSequenceComputesKeccak256 := fun s m =>
  ⟨hashBytes m s, execAll_hashExpansion m s, hashBytes_digest m s, rfl, rfl, rfl, hashBytes_frame m s⟩

end Sys2Proof.Machine
end

section
/-! The block form of Keccak-256 (R105): absorbing byte by byte is XORing whole blocks, and padding the bytes left over is
XORing the padded last block. -/

namespace Sys2Proof.Machine

/-! XORing bytes into the state, one after the other. -/

@[simp] theorem xorBytesAt_nil (a : Lanes) (p : Nat) : xorBytesAt a p [] = a := rfl

theorem xorBytesAt_cons (a : Lanes) (p : Nat) (b : Byte) (m : List Byte) :
    xorBytesAt a p (b :: m) = xorBytesAt (xorStateByte a p b) (p + 1) m := rfl

theorem xorBytesAt_append (a : Lanes) (p : Nat) (m n : List Byte) :
    xorBytesAt a p (m ++ n) = xorBytesAt (xorBytesAt a p m) (p + m.length) n := by
  induction m generalizing a p with
  | nil => rfl
  | cons b m ih =>
    rw [List.cons_append, xorBytesAt_cons, ih, xorBytesAt_cons, List.length_cons]
    congr 1
    omega

theorem xorStateByte_zero (a : Lanes) (p : Nat) : xorStateByte a p 0 = a :=
  lanes_ext_bytes fun i hi => by
    rw [stateByte_xorStateByte_apply _ _ _ hi, ite_self]
    exact BitVec.xor_zero

theorem xorBytesAt_zeros (a : Lanes) (p n : Nat) : xorBytesAt a p (List.replicate n 0) = a := by
  induction n generalizing p with
  | zero => rfl
  | succ n ih => rw [List.replicate_succ, xorBytesAt_cons, xorStateByte_zero, ih]

/-- Two bytes XORed into the same state byte are their XOR, once. -/
theorem xorStateByte_xorStateByte (a : Lanes) (p : Nat) (b c : Byte) :
    xorStateByte (xorStateByte a p b) p c = xorStateByte a p (b ^^^ c) :=
  lanes_ext_bytes fun i hi => by
    simp only [stateByte_xorStateByte _ _ hi]
    split
    · exact BitVec.xor_assoc _ _ _
    · rfl

/-! Absorbing (R105, R106). -/

variable (a : Lanes) {p : Nat}

/-- Bytes that do not fill the block are XORed in. -/
theorem absorbBytes_within {m : List Byte} (h : p + m.length < 136) :
    absorbBytes m a p = (xorBytesAt a p m, p + m.length) := by
  induction m generalizing a p with
  | nil => rfl
  | cons b m ih =>
    rw [List.length_cons] at h
    rw [absorbBytes_cons, if_neg (by omega), ih _ (by omega), xorBytesAt_cons, List.length_cons]
    congr 1
    omega

/-- Bytes that fill the block are XORed in and permuted, and the next block begins. -/
theorem absorbBytes_fills {chunk : List Byte} (hp : p < 136) (h : p + chunk.length = 136) (rest : List Byte) :
    absorbBytes (chunk ++ rest) a p = absorbBytes rest (permute (xorBytesAt a p chunk)) 0 := by
  induction chunk generalizing a p with
  | nil =>
    rw [List.length_nil] at h
    omega
  | cons b chunk ih =>
    rw [List.length_cons] at h
    rw [List.cons_append, absorbBytes_cons, xorBytesAt_cons]
    by_cases hlast : p + 1 = 136
    · obtain rfl : chunk = [] := List.length_eq_zero_iff.1 (by omega)
      rw [if_pos hlast, List.nil_append, xorBytesAt_nil]
    · rw [if_neg hlast, ih _ (by omega) (by omega)]

/-- XORing the padded last block is XORing the bytes left over and then the padding (R103, R105). -/
theorem xorBytesAt_lastBlock {left : List Byte} (h : left.length ≤ 135) :
    xorBytesAt a 0 (lastBlock left) = padLanes (xorBytesAt a 0 left) left.length := by
  rw [padLanes, lastBlock]
  by_cases hfull : left.length = 135
  · rw [if_pos hfull, xorBytesAt_append, Nat.zero_add, hfull]
    exact (xorStateByte_xorStateByte _ 135 Config.padFirst Config.padLast).symm
  · have hend : 0 + (left ++ [0x01] ++ List.replicate (134 - left.length) (0x00 : Byte)).length = 135 := by
      simp
      omega
    rw [if_neg hfull, xorBytesAt_append, hend, xorBytesAt_append, xorBytesAt_zeros, xorBytesAt_append, Nat.zero_add]
    rfl

/-- With `q` full blocks in the message, the block form leaves the lanes that absorbing and padding leave (R105). -/
theorem absorbBlocks_eq (q : Nat) {m : List Byte} (hq : m.length / 136 = q) :
    absorbBlocks q a m = permute (padLanes (absorbBytes m a 0).1 (absorbBytes m a 0).2) := by
  induction q generalizing a m with
  | zero =>
    rw [absorbBlocks, xorBytesAt_lastBlock a (by omega), absorbBytes_within a (by omega), Nat.zero_add]
  | succ q ih =>
    have htake : 0 + (m.take 136).length = 136 := by
      rw [List.length_take]
      omega
    have hdrop : (m.drop 136).length / 136 = q := by
      rw [List.length_drop]
      omega
    rw [absorbBlocks, ih _ hdrop, ← absorbBytes_fills a (by omega) htake, List.take_append_drop]

/-- Settles O23: both forms leave the same lanes, whose first 32 bytes are the digest. -/
theorem keccakBlockFormEqualsByteForm : Obligations.KeccakBlockFormEqualsByteForm := by
  intro m
  rw [keccak256Blocks, absorbBlocks_eq _ _ rfl, keccak256]

end Sys2Proof.Machine
end

section
/-! The Hash Facade (R120): HASH delivers the digest of its whole argument. -/

namespace Sys2Proof.Machine

variable {s : State}

/-- HASH on an argument whose bytes are `m` delivers `Keccak256(m)`, whatever the phase (R120). -/
theorem execHash_of_holdsBytes {m : List Byte} (hr : s.ready) (hlen : m.length = s.ilen) (hm : s.holdsBytes 0 m) :
    execHash s = .next ((hashBytes m s.clearStatus).deliver (keccak256 m).toList) := by
  rw [execHash_held hr (hlen ▸ readBytes_of_holdsBytes hm), hashBytes_digest]

/-- A delivered digest stands in `OUT[0..31]` (R31). -/
theorem outByte_deliver_digest (s : State) (d : Digest) {i : Nat} (hi : i < 32) :
    (s.deliver d.toList).outByte i = d.toList.getD i 0 := by
  have hlt : i < d.toList.length := by rwa [Vector.length_toList]
  rw [outByte_deliver_of_lt (by omega) hlt, List.getD_eq_getElem _ 0 hlt]

/-- Settles O25: the bound is checked before the work begins, and the work is one hash whose digest is delivered. -/
theorem hashDeliversKeccak256OfArgument : Obligations.HashDeliversKeccak256OfArgument := by
  refine ⟨encodeThenDecodeReturnsInstruction .hash rfl, fun s =>
    ⟨fun bound hi hb hlt => inputAboveBoundIsRefused .hash s bound rfl hi hb hlt, fun m hr hlen hm =>
      ⟨_, execHash_of_holdsBytes hr hlen hm, onlyHostLevelChanges_deliver m _ s,
        fun i hi => outByte_deliver_digest _ _ hi, ?_, ?_, rfl, hashed_err m _ s, ?_, ?_⟩⟩⟩
  · rw [State.deliver_digest, hashBytes_digest]
  · exact congrArg (BitVec.ofNat 6) Vector.length_toList
  · rw [State.deliver_phase, hashBytes_phase]
  · rw [State.deliver_pos, hashBytes_pos]

end Sys2Proof.Machine
end

section
/-! The Address Deriver (R130): DERIVE_ADDRESS delivers digest bytes 12 to 31 of the last 64 bytes of its argument. -/

namespace Sys2Proof.Machine

variable {s t : State}

/-- DERIVE_ADDRESS on an argument of at least 65 bytes that ends in the 64 bytes `k` (R130). -/
theorem execDeriveAddress_of_holdsBytes {k : List Byte} (hr : s.ready) (hlen : 65 ≤ s.ilen) (hk : k.length = 64)
    (hheld : s.holdsBytes (s.ilen - 64) k) :
    execDeriveAddress s = .next ((hashBytes k s.clearStatus).deliver (addressOf (keccak256 k).toList)) := by
  rw [execDeriveAddress_held hr hlen (hk ▸ readBytes_of_holdsBytes hheld), hashBytes_digest]

/-- Byte `i` of the address is byte `12 + i` of the digest (R46). -/
theorem addressOf_getElem (dg : List Byte) {i : Nat} (hi : i < (addressOf dg).length) :
    (addressOf dg)[i] = dg.getD (12 + i) 0 := by
  have hdg : 12 + i < dg.length := by
    simp only [addressOf, List.length_take, List.length_drop] at hi
    omega
  simp only [addressOf, List.getElem_take, List.getElem_drop, List.getD_eq_getElem _ _ hdg]

/-- A delivered address stands in `OUT[0..19]` (R31). -/
theorem outByte_deliver_addressOf (s : State) (d : Digest) {i : Nat} (hi : i < 20) :
    (s.deliver (addressOf d.toList)).outByte i = d.toList.getD (12 + i) 0 := by
  have hlt : i < (addressOf d.toList).length := by rwa [addressOf_length]
  rw [outByte_deliver_of_lt (by omega) hlt, addressOf_getElem _ hlt]

/-- Where DERIVE_ADDRESS answers on a long enough argument, the address is that of the last 64 bytes. -/
theorem execDeriveAddress_outByte (hlen : 65 ≤ s.ilen) (h : execDeriveAddress s = .next t) :
    ∃ k, readBytes s.argument (s.ilen - 64) 64 = some k ∧
      ∀ i, i < 20 → t.outByte i = (keccak256 k).toList.getD (12 + i) 0 := by
  obtain ⟨-, ⟨hshort, -⟩ | ⟨-, k, hk, rfl⟩⟩ := execDeriveAddress_next h
  · exact absurd hlen (Nat.not_le.2 hshort)
  · rw [hashBytes_digest]
    exact ⟨k, hk, fun i hi => outByte_deliver_addressOf _ _ hi⟩

/-- Reading `n` bytes at two places gives the same where the bytes there are the same. -/
theorem readBytes_eq_of_memRead_eq {m m' : Memory} {start start' n : Nat}
    (h : ∀ i, i < n → memRead m (start + i) = memRead m' (start' + i)) :
    readBytes m start n = readBytes m' start' n := by
  refine Option.ext fun bs => ?_
  simp only [readBytes_eq_some]
  refine and_congr_right fun _ => forall₂_congr fun i hi => ?_
  rw [h i hi]

/-- Settles O27: the bound and then the length are checked, and the address is the tail of one hash. -/
theorem deriveAddressTakesDigestTail : Obligations.DeriveAddressTakesDigestTail := by
  refine ⟨encodeThenDecodeReturnsInstruction .deriveAddress rfl, fun s =>
    ⟨fun bound hi hb hlt => inputAboveBoundIsRefused .deriveAddress s bound rfl hi hb hlt, fun hr hlen => ?_,
      fun k hr hlen hk hheld => ?_⟩⟩
  · exact execDeriveAddress_short hr hlen
  · refine ⟨_, execDeriveAddress_of_holdsBytes hr hlen hk hheld, onlyHostLevelChanges_deliver k _ s,
      fun i hi => outByte_deliver_addressOf _ _ hi, ?_, ?_, rfl, hashed_err k _ s, ?_⟩
    · rw [State.deliver_digest, hashBytes_digest]
    · exact congrArg (BitVec.ofNat 6) (addressOf_length _)
    · rw [State.deliver_phase, hashBytes_phase]

/-- Settles O28: the address is a function of the last 64 bytes, which are the same bytes in both arguments. -/
theorem deriveAddressIgnoresMarkerAndPrefix : Obligations.DeriveAddressIgnoresMarkerAndPrefix := by
  intro s s' t t' hlen hlen' htail hx hx' i hi
  obtain ⟨k, hk, hout⟩ := execDeriveAddress_outByte hlen hx
  obtain ⟨k', hk', hout'⟩ := execDeriveAddress_outByte hlen' hx'
  have hsame : k = k' := by
    rw [readBytes_eq_of_memRead_eq htail, hk'] at hk
    exact (Option.some.inj hk).symm
  rw [hout i hi, hout' i hi, hsame]

end Sys2Proof.Machine
end

section
/-! The Checksum Formatter (R140 to R143): which texts it accepts, what it makes of a character, and that lower-casing undoes it. -/

namespace Sys2Proof.Machine

variable {s t : State} {c : Byte} {text : List Byte} {i : Nat}

/-! The texts that CHECKSUM accepts (R141). -/

/-- The address characters by their codes (R55). -/
theorem isAddressChar_iff : isAddressChar c = true ↔ (0x30 ≤ c ∧ c ≤ 0x39) ∨ (0x61 ≤ c ∧ c ≤ 0x66) := by
  rw [isAddressChar, Bool.or_eq_true, isDigit, isLowerAF, decide_eq_true_iff, decide_eq_true_iff]

theorem isAddressChar_eq_false_iff :
    isAddressChar c = false ↔ ¬ ((0x30 ≤ c ∧ c ≤ 0x39) ∨ (0x61 ≤ c ∧ c ≤ 0x66)) := by
  rw [← Bool.not_eq_true, isAddressChar_iff]

/-- Where every byte is written, the scan's verdict is that of the text. -/
theorem scanText_of_readBytes {m : Memory} {start n : Nat} (h : readBytes m start n = some text) :
    scanText m start n = some (text.all isAddressChar) := by
  obtain ⟨hlen, hbytes⟩ := readBytes_eq_some.1 h
  induction text generalizing start n with
  | nil =>
    obtain rfl : 0 = n := hlen
    rfl
  | cons b rest ih =>
    obtain rfl : rest.length + 1 = n := hlen
    have hb : memRead m start = some b := hbytes 0 (by omega)
    have hrest (k : Nat) (hk : k < rest.length) : memRead m (start + 1 + k) = rest[k]? := by
      have hsucc := hbytes (k + 1) (by omega)
      rwa [← Nat.add_assoc, Nat.add_right_comm, List.getElem?_cons_succ] at hsucc
    rw [scanText, hb, List.all_cons]
    cases hok : isAddressChar b with
    | true => simpa [hok] using ih (readBytes_eq_some.2 ⟨rfl, hrest⟩) rfl hrest
    | false => simp [hok]

/-- The scan of the whole argument accepts it exactly where it is 40 written characters of `[0-9a-f]`, by their codes. -/
theorem scanText_argument_eq_true_iff {m : Memory} :
    scanText m 0 40 = some true ↔
      ∀ k, k < 40 → ∃ b, memRead m k = some b ∧ ((0x30 ≤ b ∧ b ≤ 0x39) ∨ (0x61 ≤ b ∧ b ≤ 0x66)) := by
  simp only [scanText_eq_true, Nat.zero_add, isAddressChar_iff]

/-! One output character (R142, R143). -/

theorem recase_eq (c : Byte) (v : BitVec 4) :
    recase c v = if 0x61 ≤ c ∧ c ≤ 0x66 ∧ 7 < v then c - 0x20 else c := by
  simp [recase, isLowerAF, upper, and_assoc]

theorem recase_of_digit (h : 0x30 ≤ c ∧ c ≤ 0x39) (v : BitVec 4) : recase c v = c := by
  rw [recase_eq, if_neg]
  bv_omega

/-- Lower-casing gives back the character: a raised letter is one of 'A' to 'F', and no address character is. -/
theorem lowerCase_recase (h : isAddressChar c = true) (v : BitVec 4) : lowerCase (recase c v) = c := by
  rw [isAddressChar_iff] at h
  rw [recase_eq, lowerCase]
  split
  · rw [if_pos (by bv_omega)]
    bv_omega
  · rw [if_neg (by bv_omega)]

/-- The lower half of a byte is what its mask leaves. -/
theorem setWidth_four_setWidth_eight (b : Byte) : (b.setWidth 4).setWidth 8 = b &&& 0x0F := by
  have hmask : (b &&& 0x0F).toNat = b.toNat % 2 ^ 4 := Nat.and_two_pow_sub_one_eq_mod _ 4
  bv_omega

/-- The nibble as a byte: the upper half of its byte shifted down, or the lower half masked (R56). -/
theorem nibble_setWidth (h : List Byte) (i : Nat) :
    (nibble h i).setWidth 8 = if i % 2 = 0 then h.getD (i / 2) 0 >>> 4 else h.getD (i / 2) 0 &&& 0x0F := by
  rw [nibble]
  split
  · bv_omega
  · exact setWidth_four_setWidth_eight _

theorem seven_lt_setWidth_iff {v : BitVec 4} : ((7 : Nat) : Byte) < v.setWidth 8 ↔ 7 < v := by
  rw [BitVec.natCast_eq_ofNat]
  bv_omega

/-- The recased character with its nibble compared as a byte. -/
theorem recase_nibble (c : Byte) (h : List Byte) (i : Nat) :
    recase c (nibble h i) =
      if 0x61 ≤ c ∧ c ≤ 0x66 ∧
          7 < (if i % 2 = 0 then h.getD (i / 2) 0 >>> 4 else h.getD (i / 2) 0 &&& 0x0F)
      then c - 0x20 else c := by
  simp only [recase_eq, ← nibble_setWidth, seven_lt_setWidth_iff]

/-- A delivered text stands in `OUT[0..39]` (R31). -/
theorem outByte_deliver_recaseText (s : State) (text dg : List Byte) (hi : i < 40) :
    (s.deliver (recaseText text dg)).outByte i = recase (text.getD i 0) (nibble dg i) := by
  rw [outByte_deliver_of_lt hi (by rwa [recaseText_length])]
  simp [recaseText]

/-! The operation. -/

/-- CHECKSUM on an argument whose 40 bytes are not all address characters (R152). -/
theorem execChecksum_of_badText (hr : s.ready) (htext : readBytes s.argument 0 40 = some text)
    (hbad : ∃ c ∈ text, isAddressChar c = false) :
    execChecksum s = .next (s.clearStatus.raiseError .invalidAddressFormat) := by
  refine execChecksum_invalid hr (.inr ?_)
  rw [scanText_of_readBytes htext, List.all_eq_false.2 (by simpa using hbad)]

/-- CHECKSUM on an argument whose 40 bytes are an address text (R140). -/
theorem execChecksum_of_text (hr : s.ready) (hlen : s.ilen = 40) (htext : readBytes s.argument 0 40 = some text)
    (hok : ∀ c ∈ text, isAddressChar c = true) :
    execChecksum s =
      .next ((hashBytes text s.clearStatus).deliver (recaseText text (keccak256 text).toList)) := by
  have hscan : scanText s.argument 0 40 = some true := by rw [scanText_of_readBytes htext, List.all_eq_true.2 hok]
  rw [execChecksum_held hr hlen hscan htext, hashBytes_digest]

/-- A CHECKSUM that completes without error had an address text as its argument, and delivers it recased. -/
theorem execChecksum_ovalid (h : execChecksum s = .next t) (hv : t.ovalid = true) :
    ∃ text, readBytes s.argument 0 40 = some text ∧ (∀ c ∈ text, isAddressChar c = true) ∧
      ∀ i, i < 40 → t.outByte i = recase (text.getD i 0) (nibble (keccak256 text).toList i) := by
  obtain ⟨-, ⟨-, rfl⟩ | ⟨-, hscan, text, htext, rfl⟩⟩ := execChecksum_next h
  · cases hv
  · rw [scanText_of_readBytes htext] at hscan
    refine ⟨text, htext, List.all_eq_true.1 (Option.some.inj hscan), fun i hi => ?_⟩
    rw [outByte_deliver_recaseText _ _ _ hi, hashBytes_digest]

/-- Settles O29: the bound, the length and the characters are checked in this order, and an accepted text is hashed once
and recased by the nibbles of its digest. -/
theorem checksumRecasesAddressText : Obligations.ChecksumRecasesAddressText := by
  refine ⟨encodeThenDecodeReturnsInstruction .checksum rfl, fun s =>
    ⟨fun bound hi hb hlt => inputAboveBoundIsRefused .checksum s bound rfl hi hb hlt,
      fun hr hlen => execChecksum_invalid hr (.inl hlen), fun m hr hlen hm hheld => ?_⟩⟩
  have htext : readBytes s.argument 0 40 = some m := hm ▸ readBytes_of_holdsBytes hheld
  simp only [← isAddressChar_iff, Bool.not_eq_true]
  refine ⟨execChecksum_of_badText hr htext, fun hok => ⟨_, execChecksum_of_text hr hlen htext hok,
    onlyHostLevelChanges_deliver m _ s, fun i hi => ?_, ?_, ?_, rfl, hashed_err m _ s, ?_⟩⟩
  · rw [outByte_deliver_recaseText _ _ _ hi, recase_nibble]
  · rw [State.deliver_digest, hashBytes_digest]
  · exact congrArg (BitVec.ofNat 6) (recaseText_length _ _)
  · rw [State.deliver_phase, hashBytes_phase]

/-- Settles O30: what the nibble does to a character, lower-casing undoes, and it does nothing to a digit. -/
theorem checksumChangesOnlyLetterCase : Obligations.ChecksumChangesOnlyLetterCase := by
  intro s t h hv i c hi hc
  obtain ⟨text, htext, hok, hout⟩ := execChecksum_ovalid h hv
  have hget : text[i]? = some c := by rw [← (readBytes_eq_some.1 htext).2 i hi, Nat.zero_add, hc]
  have hgetD : text.getD i 0 = c := by rw [List.getD_eq_getElem?_getD, hget, Option.getD_some]
  rw [hout i hi, hgetD]
  exact ⟨lowerCase_recase (hok c (List.mem_of_getElem? hget)) _, fun hdigit => recase_of_digit hdigit _⟩

/-- Settles O31: the lower-cased output is the text of the first run, and the output is a function of the text. -/
theorem checksumIsIdempotent : Obligations.ChecksumIsIdempotent := by
  intro s t s' h hv hr' hlen' hheld
  obtain ⟨text, htext, hok, hout⟩ := execChecksum_ovalid h hv
  obtain ⟨hlen, -⟩ := readBytes_eq_some.1 htext
  have hlower : (List.range 40).map (fun i => lowerCase (t.outByte i)) = text := by
    refine List.ext_getElem (by simp [hlen]) fun i _ hi => ?_
    have hget : text.getD i 0 = text[i] := List.getD_eq_getElem _ 0 hi
    rw [List.getElem_map, List.getElem_range, hout i (hlen ▸ hi), hget, lowerCase_recase (hok _ (List.getElem_mem hi))]
  have htext' : readBytes s'.argument 0 40 = some text := hlen ▸ readBytes_of_holdsBytes (hlower ▸ hheld)
  refine ⟨_, execChecksum_of_text hr' hlen' htext' hok, rfl, fun i hi => ?_⟩
  rw [outByte_deliver_recaseText _ _ _ hi, hout i hi]

/-- Settles O34: CHECKSUM completes in the error exactly where the length or the scan rejects the argument. -/
theorem addressFormatErrorExactlyWhenInvalid : Obligations.AddressFormatErrorExactlyWhenInvalid := by
  refine fun s => ⟨fun t h => ?_, fun hr hlen => ⟨_, execChecksum_invalid hr (.inl hlen), rfl⟩,
    fun k c hr hlen hk hc hbad hgood => ⟨_, execChecksum_invalid hr (.inr ?_), rfl⟩⟩
  · rw [← scanText_argument_eq_true_iff]
    obtain ⟨-, ⟨hinvalid, rfl⟩ | ⟨hlen, hscan, text, -, rfl⟩⟩ := execChecksum_next h
    · refine iff_of_true rfl fun ⟨hlen, hscan⟩ => ?_
      simp [hlen, hscan] at hinvalid
    · exact iff_of_false (by rw [hashed_err]; decide) (not_not_intro ⟨hlen, hscan⟩)
  · simp only [← isAddressChar_iff, Bool.not_eq_true] at hbad hgood
    exact scanText_eq_false.2 ⟨k, hk, ⟨c, by rwa [Nat.zero_add], hbad⟩, by simpa using hgood⟩

end Sys2Proof.Machine
end

section
/-! The errors of the host-level operations (R151, R152, R156), and the host that does nothing (R163). -/

namespace Sys2Proof.Machine

variable {s : State} {text : List Byte}

/-- Settles O51: the empty list of actions is the arm of `hostStep` that answers the state itself. -/
theorem idleHostHoldsState : Obligations.IdleHostHoldsState := by
  intro s hhost
  rw [step, hostStep, hhost]

/-- Settles O35: raising an error on the cleared status writes both fields again, and a result leaves `ERR` NONE. -/
theorem errorWritesOnlyStatus : Obligations.ErrorWritesOnlyStatus := by
  intro i s t hl h herr
  obtain ⟨e, -, rfl⟩ | ⟨m, r, -, rfl⟩ := exec_hostLevel_next hl h
  · rfl
  · exact absurd (hashed_err m r s) herr

/-- Settles O33: a short argument is the error; a longer one that completes has been hashed, which leaves `ERR` NONE. -/
theorem keyLengthErrorExactlyBelowSixtyFive : Obligations.KeyLengthErrorExactlyBelowSixtyFive := by
  refine fun s => ⟨fun hr hlen => ⟨_, execDeriveAddress_short hr hlen, rfl, rfl⟩, fun t h => ?_⟩
  obtain ⟨-, ⟨hlen, rfl⟩ | ⟨hlen, k, -, rfl⟩⟩ := execDeriveAddress_next h
  · exact iff_of_true rfl hlen
  · exact iff_of_false (by rw [hashed_err]; decide) (Nat.not_lt.2 hlen)

/-- CHECKSUM on a written argument that is not an address text, by its length or by a character (R141, R152). -/
theorem execChecksum_of_not_addressText (hr : s.ready) (hlen : text.length = s.ilen) (hheld : s.holdsBytes 0 text)
    (hbad : ¬ (text.length = 40 ∧ ∀ c ∈ text, isAddressChar c = true)) :
    execChecksum s = .next (s.clearStatus.raiseError .invalidAddressFormat) := by
  by_cases hforty : text.length = 40
  · have htext : readBytes s.argument 0 40 = some text := hforty ▸ readBytes_of_holdsBytes hheld
    exact execChecksum_of_badText hr htext (by simpa [hforty] using hbad)
  · exact execChecksum_invalid hr (.inl (hlen ▸ hforty))

/-- Settles O54: an address text is hashed, which leaves `ERR` NONE, and every other written argument is the error. -/
theorem checksumRaisesAddressFormatErrorExactlyForInvalidText :
    Obligations.ChecksumRaisesAddressFormatErrorExactlyForInvalidText := by
  intro s m hr hlen hheld
  simp only [← isAddressChar_iff]
  by_cases hvalid : m.length = 40 ∧ ∀ c ∈ m, isAddressChar c = true
  · obtain ⟨hforty, hok⟩ := hvalid
    have htext : readBytes s.argument 0 40 = some m := hforty ▸ readBytes_of_holdsBytes hheld
    refine ⟨_, execChecksum_of_text hr (hlen.symm.trans hforty) htext hok, ?_⟩
    exact iff_of_false (by rw [hashed_err]; decide) (not_not_intro ⟨hforty, hok⟩)
  · exact ⟨_, execChecksum_of_not_addressText hr hlen hheld hvalid, iff_of_true rfl hvalid⟩

end Sys2Proof.Machine
end
